-- ==== Sys2Proof/Word.lean ====
section
/-! DEFINITION. The word of the link: the byte of a frame (R148), and the little-endian order of a
frame's multi-byte fields (R159). -/

namespace Sys2Proof

/-- One byte of a frame, of the KIND and of the TAG (R148). -/
abbrev Byte := BitVec 8

/-- The number a byte stands for, as a byte. -/
abbrev byte (n : Nat) : Byte := BitVec.ofNat 8 n

end Sys2Proof
end

