-- ==== Sys2Proof/Syntax.lean ====
section
/-! DEFINITION. The commands of the NF256: one constructor of `Instr` per row of spec/opcode_table.json,
with the fields its rule lists, and `Request`, what one frame asks of the part (R160). Numbers and codes are
carried as the frame's body carries them, before any check of range (R2 step 1), so that a value outside its
range can be written and is answered as the spec says. -/

namespace Sys2Proof

/-- The strap pins RATE1, RATE0, PAR1, PAR0 (R145); `true` is high. -/
structure Straps where
  rate1 : Bool
  rate0 : Bool
  par1 : Bool
  par0 : Bool
deriving DecidableEq, Repr

/-- A character as the receiver takes it from RXD (R146): 8 data bits, the level of the parity bit (of no
meaning without parity) and the level of the stop bit. -/
structure Character where
  data : Byte
  parityBit : Bool
  stopBit : Bool
deriving DecidableEq, Repr

/-- The fields of SYSTEM SET (R30), each optional. -/
structure SystemSpec where
  slotLength : Option Nat
  reserve : Option Nat
  noticeMode : Option Nat
  interval : Option Nat
deriving DecidableEq, Repr

/-- The fields of SURVEY ARM besides the zone and the REPLACE mark (R31). -/
structure SurveySpec where
  start : Nat
  slots : Nat
  runLength : Nat
deriving DecidableEq, Repr

/-- The fields of ZONE SET WINDOW besides the zone (R7). -/
structure WindowSpec where
  start : Nat
  slots : Nat
  runLength : Option Nat
  delay : Option Nat
deriving DecidableEq, Repr

/-- One exceptional user entry of ZONE SET ALLOWANCE (R8); a weekday set is a byte whose bit d stands for
weekday d (R159). -/
structure User where
  tag : Nat
  allowance : Nat
  weekdays : Option Nat
  validUntil : Option Nat
deriving DecidableEq, Repr

/-- The seven test parameters L, w, T, P, k, H and the settle length (R1, R9). -/
structure Tests where
  learn : Nat
  weight : Nat
  burst : Nat
  persist : Nat
  slack : Nat
  limit : Nat
  settleLength : Nat
deriving DecidableEq, Repr

/-- The fields of METER DEFINE (R14); kind, modulus and scale by their codes (R161). -/
structure MeterSpec where
  tag : Nat
  kind : Nat
  upstream : Nat
  downstream : Nat
  modulus : Nat
  scale : Nat
  maxRate : Nat
  maxGap : Option Nat
  channel : Option Nat
deriving DecidableEq, Repr

/-- One reading record of READINGS (R162): the timestamp as an offset from the base time. -/
structure ReadingSpec where
  tag : Nat
  offset : Nat
  forward : Nat
  reverse : Option Nat
deriving DecidableEq, Repr

/-- The three settings of CHANNEL SET (R47), each with its presence. -/
structure ChannelSpec where
  enable : Option Nat
  width : Option Nat
  noise : Option Nat
deriving DecidableEq, Repr

/-- What a frame that is judged good asks of the part: one constructor per request KIND (R160), METER
EXCEPTIONS by its form (R68), a KIND that names no request (R152), and a body refused before its fields are
read: of the wrong length, or with a byte that R163 refuses. -/
inductive Request where
  | identify
  | systemSet (f : SystemSpec)
  | poolStatus
  | flush
  | ack (entry flags : Nat)
  | clockSet (time weekday : Option Nat)
  | surveyArm (zone : Nat) (f : SurveySpec) (replace : Bool)
  | surveyCancel (zone : Nat)
  | zoneDefine (zone : Nat)
  | zoneStart (zone : Nat)
  | zoneStop (zone : Nat)
  | zoneUndefine (zone : Nat)
  | zoneSetWindow (zone : Nat) (f : WindowSpec)
  | zoneSetAllowance (zone properties perProperty : Nat) (users : List User)
  | zoneSetTests (zone : Nat) (f : Tests)
  | disturb (zone start stop : Nat)
  | meterDefine (f : MeterSpec)
  | meterRetire (tag : Nat)
  | meterCut (tag time : Nat)
  | meterStatus (tag : Nat)
  | exceptionsTag (tag : Nat)
  | exceptionsSweep (index : Nat)
  | readings (base : Nat) (records : List ReadingSpec)
  | channelSet (channel : Nat) (f : ChannelSpec)
  | dispose (zone disposition : Nat) (absorb : Bool)
  | rebaseline (zone : Nat)
  | baselineGet (zone : Nat)
  | baselinePut (zone : Nat) (baseline : Int) (count cusum : Nat)
  | resultGet (zone selector : Nat)
  | zoneStatus (zone : Nat)
  | rollcall (first last mode : Nat)
  | rollcallNext
  | rollcallStop
  | profile (zone descriptor : Nat)
  | unknown
  | badLength
  | badValue
deriving DecidableEq, Repr

/-- The commands, in the order of spec/opcode_table.json. A request row carries the TAG of its frame and the
fields its rule lists; it stands for the reception of a good frame that carries the request (log 2). -/
inductive Instr where
  /-- POWER_ON: the level of RESET at power-on and the straps (log 4). -/
  | powerOn (resetLow : Bool) (straps : Straps)
  | resetAssert
  | resetRelease (straps : Straps)
  | tick
  | pulseFallingEdge (channel : Nat)
  /-- PULSE_RISING_EDGE: the low period's length in microseconds (log 6). -/
  | pulseRisingEdge (channel lowMicros : Nat)
  /-- CHAR_ERROR: the bytes received since the last event of the receiver, then the levels of RXD from there, bit time
  by bit time (log 30). -/
  | charError (received : List Byte) (levels : List Bool)
  /-- TOO_LONG: the LEN byte. -/
  | tooLong (len : Byte)
  /-- TIMEOUT: the bytes received since the last event of the receiver, before the silence. -/
  | timeout (received : List Byte)
  /-- FRAME: a whole frame, LEN being the length of its body. -/
  | frame (kind tag : Byte) (body : List Byte) (crc : BitVec 16)
  | unknownKind (kind tag : Byte)
  | transmissionEnd
  | streamIntervalExpiry
  | holdAssert
  | holdDeassert
  | identify (tag : Byte)
  | systemSet (tag : Byte) (f : SystemSpec)
  | poolStatus (tag : Byte)
  | flush (tag : Byte)
  | ack (tag : Byte) (entry flags : Nat)
  | clockSet (tag : Byte) (time weekday : Option Nat)
  | surveyArm (tag : Byte) (zone : Nat) (f : SurveySpec)
  | surveyArmReplace (tag : Byte) (zone : Nat) (f : SurveySpec)
  | surveyCancel (tag : Byte) (zone : Nat)
  | zoneDefine (tag : Byte) (zone : Nat)
  | zoneStart (tag : Byte) (zone : Nat)
  | zoneStop (tag : Byte) (zone : Nat)
  | zoneUndefine (tag : Byte) (zone : Nat)
  | zoneSetWindow (tag : Byte) (zone : Nat) (f : WindowSpec)
  | zoneSetAllowance (tag : Byte) (zone properties perProperty : Nat) (users : List User)
  | zoneSetTests (tag : Byte) (zone : Nat) (f : Tests)
  | disturb (tag : Byte) (zone start stop : Nat)
  | meterDefine (tag : Byte) (f : MeterSpec)
  | meterRetire (tag : Byte) (meterTag : Nat)
  | retireTaken
  | meterCut (tag : Byte) (meterTag time : Nat)
  | cutTaken
  | meterStatus (tag : Byte) (meterTag : Nat)
  | meterExceptionsTag (tag : Byte) (meterTag : Nat)
  | meterExceptionsSweep (tag : Byte) (index : Nat)
  | readings (tag : Byte) (base : Nat) (records : List ReadingSpec)
  | channelSet (tag : Byte) (channel : Nat) (f : ChannelSpec)
  | channelSetTaken
  | channelSetRead (tag : Byte) (channel : Nat)
  | dismiss (tag : Byte) (zone : Nat) (absorb : Bool)
  | confirm (tag : Byte) (zone : Nat) (absorb : Bool)
  | repaired (tag : Byte) (zone : Nat) (absorb : Bool)
  | rebaseline (tag : Byte) (zone : Nat)
  | baselineGet (tag : Byte) (zone : Nat)
  | baselinePut (tag : Byte) (zone : Nat) (baseline : Int) (count cusum : Nat)
  | resultGet (tag : Byte) (zone selector : Nat)
  | zoneStatus (tag : Byte) (zone : Nat)
  | rollcall (tag : Byte) (first last mode : Nat)
  | rollcallNext (tag : Byte)
  | rollcallStop (tag : Byte)
  | profile (tag : Byte) (zone descriptor : Nat)
  | takeReading
  | chainDecision
  /-- PLACEMENT: the night the Chain Unit reaches, by zone and descriptor (R51: "in any order"). -/
  | placement (zone descriptor : Nat)
  | assessorTake
  | assessmentCompletion
  | sync
deriving DecidableEq, Repr

end Sys2Proof
end

