-- ==== Sys2Proof/Decode.lean ====
section
/-! DEFINITION. Bytes and requests: the little-endian fields of R159, the CRC of R149, the body of each
request kind (R159 to R163) read (`parseRequest`) and written (`Request.kind`, `Request.body`), and
`decodeTableWord`. No row of spec/opcode_table.json gives bits, so `decodeTableWord` answers none. -/

namespace Sys2Proof

/-- The command a word of the opcode table spells: the table gives no bits for any row (log 22). -/
def decodeTableWord (_nbits _w : Nat) : Option Instr := none

/-! ### Fields (R159) -/

/-- A number as `k` bytes, little-endian (R159). -/
def le : Nat → Nat → List Byte
  | 0, _ => []
  | k + 1, v => byte v :: le k (v / 256)

/-- The number a little-endian field holds (R159). -/
def unle : List Byte → Nat
  | [] => 0
  | b :: rest => b.toNat + 256 * unle rest

/-- A signed number as four bytes, two's complement (R159). -/
def leSigned (v : Int) : List Byte := le 4 (v % 4294967296).toNat

/-- The signed number a four-byte pattern stands for (R159). -/
def toSigned (n : Nat) : Int := if n < 2147483648 then n else (n : Int) - 4294967296

/-- The field of `k` bytes at an offset of a body. -/
def num (b : List Byte) (off k : Nat) : Nat := unle ((b.drop off).take k)

/-- A mark, or a field that answers yes or no (R159). -/
def leBool (v : Bool) : List Byte := [if v then 1 else 0]

/-- An optional field: its presence byte, then its bytes, zero when it is absent (R159). -/
def leOpt (k : Nat) : Option Nat → List Byte
  | none => 0 :: le k 0
  | some v => 1 :: le k v

/-- An optional field of `k` bytes read at an offset; its presence byte is judged by `presenceOk`. -/
def numOpt (b : List Byte) (off k : Nat) : Option Nat :=
  if num b off 1 = 0 then none else some (num b (off + 1) k)

/-- A presence byte or mark holds 0 or 1 (R163). -/
def flagOk (b : List Byte) (off : Nat) : Bool := num b off 1 ≤ 1

/-! ### The CRC (R149) -/

/-- One bit taken into the CRC register (R149). -/
def crcBit (reg : BitVec 16) (bit : Bool) : BitVec 16 :=
  if reg.getLsbD 15 != bit then (reg <<< 1) ^^^ 0x1021 else reg <<< 1

/-- One byte taken into the CRC register, most significant bit first (R149). -/
def crcByte (reg : BitVec 16) (b : Byte) : BitVec 16 :=
  [7, 6, 5, 4, 3, 2, 1, 0].foldl (fun r i => crcBit r (b.getLsbD i)) reg

/-- The CRC over a list of bytes, from 0xFFFF (R149). -/
def crc16 (bytes : List Byte) : BitVec 16 := bytes.foldl crcByte 0xFFFF

/-- The two CRC bytes of a frame, low byte first (R149). -/
def crcBytes (c : BitVec 16) : List Byte := le 2 c.toNat

/-! ### Reading a request body (R152, R159 to R163) -/

/-- One exceptional user entry of 11 bytes (R8, R159). -/
def parseUser (b : List Byte) : User :=
  { tag := num b 0 4, allowance := num b 4 2, weekdays := numOpt b 6 1, validUntil := numOpt b 8 2 }

/-- The user entries that stand one after another in a body. -/
def parseUsers : Nat → List Byte → List User
  | 0, _ => []
  | n + 1, b => parseUser b :: parseUsers n (b.drop 11)

/-- Every presence byte of the user entries is 0 or 1 (R163). -/
def usersOk : Nat → List Byte → Bool
  | 0, _ => true
  | n + 1, b => flagOk b 6 && flagOk b 8 && usersOk n (b.drop 11)

/-- One reading record of 15 bytes (R162): bit 23 of the offset field says that a reverse register stands. -/
def parseReading (b : List Byte) : ReadingSpec :=
  { tag := num b 0 4, offset := num b 4 3 % 8388608, forward := num b 7 4,
    reverse := if num b 4 3 < 8388608 then none else some (num b 11 4) }

/-- The reading records that stand one after another in a body (R162). -/
def parseReadings : Nat → List Byte → List ReadingSpec
  | 0, _ => []
  | n + 1, b => parseReading b :: parseReadings n (b.drop 15)

/-- A body of fixed length: the wrong length gives BAD_LENGTH (R152), a presence byte or mark that is
neither 0 nor 1 gives BAD_VALUE (R163), and otherwise the request. -/
def parseFixed (b : List Byte) (length : Nat) (marks : List Nat) (r : Request) : Request :=
  if b.length = length then (if marks.all (flagOk b) then r else .badValue) else .badLength

/-- The request a frame of this KIND and BODY carries (R152, R159, R160, R163). A READINGS or ZONE SET ALLOWANCE body
too short to hold its count byte is BAD_LENGTH: the model's choice, log 34. -/
def parseRequest (kind : Byte) (b : List Byte) : Request :=
  match kind.toNat with
  | 0x01 => parseFixed b 0 [] .identify
  | 0x02 => parseFixed b 9 [0, 2, 5, 7]
      (.systemSet { slotLength := numOpt b 0 1, reserve := numOpt b 2 2, noticeMode := numOpt b 5 1, interval := numOpt b 7 1 })
  | 0x03 => parseFixed b 0 [] .poolStatus
  | 0x04 => parseFixed b 0 [] .flush
  | 0x05 => parseFixed b 3 [] (.ack (num b 0 2) (num b 2 1))
  | 0x06 => parseFixed b 7 [0, 5] (.clockSet (numOpt b 0 4) (numOpt b 5 1))
  | 0x07 => parseFixed b 9 [8]
      (.surveyArm (num b 0 2) { start := num b 2 4, slots := num b 6 1, runLength := num b 7 1 } (num b 8 1 = 1 : Bool))
  | 0x08 => parseFixed b 2 [] (.surveyCancel (num b 0 2))
  | 0x09 => parseFixed b 2 [] (.zoneDefine (num b 0 2))
  | 0x0A => parseFixed b 2 [] (.zoneStart (num b 0 2))
  | 0x0B => parseFixed b 2 [] (.zoneStop (num b 0 2))
  | 0x0C => parseFixed b 2 [] (.zoneUndefine (num b 0 2))
  | 0x0D => parseFixed b 10 [5, 7]
      (.zoneSetWindow (num b 0 2) { start := num b 2 2, slots := num b 4 1, runLength := numOpt b 5 1, delay := numOpt b 7 2 })
  | 0x0E =>
    if b.length < 6 then .badLength
    else if 8 < num b 5 1 then .badValue
    else if b.length ≠ 6 + 11 * num b 5 1 then .badLength
    else if usersOk (num b 5 1) (b.drop 6) then
      .zoneSetAllowance (num b 0 2) (num b 2 2) (num b 4 1) (parseUsers (num b 5 1) (b.drop 6))
    else .badValue
  | 0x0F => parseFixed b 19 []
      (.zoneSetTests (num b 0 2) { learn := num b 2 1, weight := num b 3 1, burst := num b 4 4, persist := num b 8 1,
                                   slack := num b 9 4, limit := num b 13 4, settleLength := num b 17 2 })
  | 0x10 => parseFixed b 10 [] (.disturb (num b 0 2) (num b 2 4) (num b 6 4))
  | 0x11 => parseFixed b 22 [15, 20]
      (.meterDefine { tag := num b 0 4, kind := num b 4 1, upstream := num b 5 2, downstream := num b 7 2, modulus := num b 9 1,
                      scale := num b 10 1, maxRate := num b 11 4, maxGap := numOpt b 15 4, channel := numOpt b 20 1 })
  | 0x12 => parseFixed b 4 [] (.meterRetire (num b 0 4))
  | 0x13 => parseFixed b 8 [] (.meterCut (num b 0 4) (num b 4 4))
  | 0x14 => parseFixed b 4 [] (.meterStatus (num b 0 4))
  | 0x15 => parseFixed b 7 []
      (if num b 0 1 = 0 then .exceptionsTag (num b 1 4) else if num b 0 1 = 1 then .exceptionsSweep (num b 5 2) else .badValue)
  | 0x16 =>
    if b.length = 0 then .badLength
    else if num b 0 1 = 0 ∨ 16 < num b 0 1 then .badValue
    else if b.length ≠ 5 + 15 * num b 0 1 then .badLength
    else .readings (num b 1 4) (parseReadings (num b 0 1) (b.drop 5))
  | 0x17 => parseFixed b 7 [1, 3, 5]
      (.channelSet (num b 0 1) { enable := numOpt b 1 1, width := numOpt b 3 1, noise := numOpt b 5 1 })
  | 0x18 => parseFixed b 4 [3] (.dispose (num b 0 2) (num b 2 1) (num b 3 1 = 1 : Bool))
  | 0x19 => parseFixed b 2 [] (.rebaseline (num b 0 2))
  | 0x1A => parseFixed b 2 [] (.baselineGet (num b 0 2))
  | 0x1B => parseFixed b 11 [] (.baselinePut (num b 0 2) (toSigned (num b 2 4)) (num b 6 1) (num b 7 4))
  | 0x1C => parseFixed b 3 [] (.resultGet (num b 0 2) (num b 2 1))
  | 0x1D => parseFixed b 2 [] (.zoneStatus (num b 0 2))
  | 0x1E => parseFixed b 5 [] (.rollcall (num b 0 2) (num b 2 2) (num b 4 1))
  | 0x1F => parseFixed b 0 [] .rollcallNext
  | 0x20 => parseFixed b 0 [] .rollcallStop
  | 0x21 => parseFixed b 3 [] (.profile (num b 0 2) (num b 2 1))
  | _ => .unknown

/-! ### Writing a request body (R159 to R162), as the host does -/

/-- The KIND of a request (R160); the three that stand for a refused body have none of their own. -/
def Request.kind : Request → Byte
  | .identify => 0x01
  | .systemSet _ => 0x02
  | .poolStatus => 0x03
  | .flush => 0x04
  | .ack _ _ => 0x05
  | .clockSet _ _ => 0x06
  | .surveyArm _ _ _ => 0x07
  | .surveyCancel _ => 0x08
  | .zoneDefine _ => 0x09
  | .zoneStart _ => 0x0A
  | .zoneStop _ => 0x0B
  | .zoneUndefine _ => 0x0C
  | .zoneSetWindow _ _ => 0x0D
  | .zoneSetAllowance _ _ _ _ => 0x0E
  | .zoneSetTests _ _ => 0x0F
  | .disturb _ _ _ => 0x10
  | .meterDefine _ => 0x11
  | .meterRetire _ => 0x12
  | .meterCut _ _ => 0x13
  | .meterStatus _ => 0x14
  | .exceptionsTag _ => 0x15
  | .exceptionsSweep _ => 0x15
  | .readings _ _ => 0x16
  | .channelSet _ _ => 0x17
  | .dispose _ _ _ => 0x18
  | .rebaseline _ => 0x19
  | .baselineGet _ => 0x1A
  | .baselinePut _ _ _ _ => 0x1B
  | .resultGet _ _ => 0x1C
  | .zoneStatus _ => 0x1D
  | .rollcall _ _ _ => 0x1E
  | .rollcallNext => 0x1F
  | .rollcallStop => 0x20
  | .profile _ _ => 0x21
  | .unknown => 0
  | .badLength => 0
  | .badValue => 0

/-- One user entry's 11 bytes. -/
def User.body (u : User) : List Byte := le 4 u.tag ++ le 2 u.allowance ++ leOpt 1 u.weekdays ++ leOpt 2 u.validUntil

/-- One reading record's 15 bytes (R162). -/
def ReadingSpec.body (r : ReadingSpec) : List Byte :=
  le 4 r.tag ++ le 3 (r.offset + if r.reverse.isSome then 8388608 else 0) ++ le 4 r.forward ++ le 4 (r.reverse.getD 0)

/-- The BODY a host sends for a request (R159 to R162). -/
def Request.body : Request → List Byte
  | .identify => []
  | .systemSet f => leOpt 1 f.slotLength ++ leOpt 2 f.reserve ++ leOpt 1 f.noticeMode ++ leOpt 1 f.interval
  | .poolStatus => []
  | .flush => []
  | .ack entry flags => le 2 entry ++ le 1 flags
  | .clockSet time weekday => leOpt 4 time ++ leOpt 1 weekday
  | .surveyArm zone f replace => le 2 zone ++ le 4 f.start ++ le 1 f.slots ++ le 1 f.runLength ++ leBool replace
  | .surveyCancel zone => le 2 zone
  | .zoneDefine zone => le 2 zone
  | .zoneStart zone => le 2 zone
  | .zoneStop zone => le 2 zone
  | .zoneUndefine zone => le 2 zone
  | .zoneSetWindow zone f => le 2 zone ++ le 2 f.start ++ le 1 f.slots ++ leOpt 1 f.runLength ++ leOpt 2 f.delay
  | .zoneSetAllowance zone properties perProperty users =>
    le 2 zone ++ le 2 properties ++ le 1 perProperty ++ le 1 users.length ++ users.flatMap User.body
  | .zoneSetTests zone f =>
    le 2 zone ++ le 1 f.learn ++ le 1 f.weight ++ le 4 f.burst ++ le 1 f.persist ++ le 4 f.slack ++ le 4 f.limit ++
      le 2 f.settleLength
  | .disturb zone start stop => le 2 zone ++ le 4 start ++ le 4 stop
  | .meterDefine f =>
    le 4 f.tag ++ le 1 f.kind ++ le 2 f.upstream ++ le 2 f.downstream ++ le 1 f.modulus ++ le 1 f.scale ++ le 4 f.maxRate ++
      leOpt 4 f.maxGap ++ leOpt 1 f.channel
  | .meterRetire tag => le 4 tag
  | .meterCut tag time => le 4 tag ++ le 4 time
  | .meterStatus tag => le 4 tag
  | .exceptionsTag tag => le 1 0 ++ le 4 tag ++ le 2 0
  | .exceptionsSweep index => le 1 1 ++ le 4 0 ++ le 2 index
  | .readings base records => le 1 records.length ++ le 4 base ++ records.flatMap ReadingSpec.body
  | .channelSet channel f => le 1 channel ++ leOpt 1 f.enable ++ leOpt 1 f.width ++ leOpt 1 f.noise
  | .dispose zone disposition absorb => le 2 zone ++ le 1 disposition ++ leBool absorb
  | .rebaseline zone => le 2 zone
  | .baselineGet zone => le 2 zone
  | .baselinePut zone baseline count cusum => le 2 zone ++ leSigned baseline ++ le 1 count ++ le 4 cusum
  | .resultGet zone selector => le 2 zone ++ le 1 selector
  | .zoneStatus zone => le 2 zone
  | .rollcall first last mode => le 2 first ++ le 2 last ++ le 1 mode
  | .rollcallNext => []
  | .rollcallStop => []
  | .profile zone descriptor => le 2 zone ++ le 1 descriptor
  | .unknown => []
  | .badLength => []
  | .badValue => []

end Sys2Proof
end

