-- ==== Sys2Proof/Config.lean ====
section
/-! DEFINITION. What the NF256 fixes (the capacities R156 reports, the ranges of time and of rates),
and the one free value of the model: the choices the world makes where the spec gives no order. -/

namespace Sys2Proof

/-- Highest zone number (R1). -/
abbrev Config.zones : Nat := 256
/-- Meter entries (R12). -/
abbrev Config.meters : Nat := 1024
/-- Meters a zone's boundary holds at most (R11). -/
abbrev Config.boundary : Nat := 16
/-- Pulse channels (R43). -/
abbrev Config.channels : Nat := 8
/-- Readings a chain holds at most (R50). -/
abbrev Config.chainLength : Nat := 8
/-- Host places of the Intake Queue (R35). -/
abbrev Config.hostPlaces : Nat := 56
/-- Records one READINGS request carries at most (R37). -/
abbrev Config.readingsPerRequest : Nat := 16
/-- Slot records of the pool (R74). -/
abbrev Config.pool : Nat := 8192
/-- REJECT frames the reject queue holds at most (R153). -/
abbrev Config.rejects : Nat := 4
/-- The longest frame body (R148). -/
abbrev Config.maxBody : Nat := 250
/-- The last site time (R19, R29). -/
abbrev Config.maxTime : Nat := 4294967295
/-- The largest rate, and the largest magnitude of a volume a good segment carries (R59, R97). -/
abbrev Config.maxRate : Nat := 2147483647
/-- Seconds in a site day (R24). -/
abbrev Config.day : Nat := 86400
/-- The SYNC byte (R148). -/
abbrev Config.syncByte : Byte := 0xA5

/-- FREE VALUE (log 1). The world's choice number `n`, where the spec lets several acts of one step come
"in either order" (R23, R41, R77, R87, R93): it picks among the acts that may come next. Nothing is known
of it; `Machine.choose` reduces it modulo the number of acts. -/
opaque Config.pick : Nat → Nat

end Sys2Proof
end

