-- ==== Sys2Proof/Machine/State.lean ====
section
/-! DEFINITION. What the NF256 holds, block by block, as plain data, and its state right after reset.
Tables keyed by number (zones, meters, channels) are lists of (number, record) with rising numbers; a number
that is not listed is in its reset state (log 11). -/

namespace Sys2Proof.Machine

/-! ### Zone Table (R1) -/

/-- The window start minute and slot count of a zone, present together (R1). -/
structure Window where
  start : Nat
  slots : Nat
deriving DecidableEq, Repr

/-- A span [start, stop) of site time (R1, R10). -/
structure Span where
  start : Nat
  stop : Nat
deriving DecidableEq, Repr

/-- The entry of a defined zone (R1); `active` is the run state ACTIVE, its absence IDLE. -/
structure ZoneEntry where
  active : Bool
  window : Option Window
  runLength : Nat
  delay : Nat
  properties : Nat
  perProperty : Nat
  users : List User
  tests : Tests
  settle : Option Span
deriving DecidableEq, Repr

/-- The entry ZONE DEFINE creates (R1, R3). -/
def ZoneEntry.fresh : ZoneEntry :=
  { active := false, window := none, runLength := 4, delay := 360, properties := 0, perProperty := 0, users := [],
    tests := { learn := 7, weight := 3, burst := 2000, persist := 2, slack := 200, limit := 5000, settleLength := 1440 },
    settle := none }

/-! ### Night Store (R72 to R91) -/

/-- A night by its zone and descriptor (R72, R92). -/
structure NightRef where
  zone : Nat
  desc : Nat
deriving DecidableEq, Repr

/-- The states of a night record (R73); `opened` is OPEN. -/
inductive NightState where
  | armed | opened | closing | draining | queued | assessing
deriving DecidableEq, Repr

/-- Quality codes (R84). -/
inductive Quality where
  | clean | spike | noisy | conflict | disturbed | incomplete
deriving DecidableEq, Repr

/-- A meter's role in a boundary (R11). -/
inductive Role where
  | inflow | outflow
deriving DecidableEq, Repr

/-- One pair of a required set (R76). -/
structure Required where
  meter : Nat
  role : Role
deriving DecidableEq, Repr

/-- A slot record (R78): exact volumes and one covered-seconds count per position. -/
structure Slot where
  inflow : Int
  outflow : Int
  covered : List Nat
deriving DecidableEq, Repr

/-- A night record (R73). Its kind follows from its descriptor, its night day from `start` (R24). A drain
mark is kept as the place in the order of issue of the reading it names (R36, log 9). -/
structure Night where
  start : Nat
  slotCount : Nat
  runLength : Nat
  deadline : Nat
  state : NightState
  required : List Required
  mark : Option Nat
  quality : Quality
  lateCount : Nat
  slots : List Slot
deriving DecidableEq, Repr

/-- Causes of a skip (R87). -/
inductive SkipCause where
  | pool | backlog | clockJump | stopped | noData | held
deriving DecidableEq, Repr

/-- A zone's skip record when it is not empty (R87). -/
structure SkipRecord where
  cause : SkipCause
  day : Nat
  count : Nat
deriving DecidableEq, Repr

/-! ### Verdict Unit (R103, R109) -/

/-- Verdict states (R109). -/
inductive VerdictState where
  | learning | normal | suspect | alarm | repair
deriving DecidableEq, Repr

/-- Test outcomes (R103). -/
inductive TestOutcome where
  | notTested | pass | burst | creep
deriving DecidableEq, Repr

/-- Causes of an alarm (R109, R116). -/
inductive AlarmCause where
  | burst | creep
deriving DecidableEq, Repr

/-- A result record (R103). -/
structure ResultRecord where
  zone : Nat
  survey : Bool
  day : Nat
  slotCount : Nat
  completeCount : Nat
  quality : Quality
  mnf : Int
  runStart : Nat
  lnu : Nat
  nnf : Int
  baseline : Int
  excess : Int
  cusum : Nat
  persistence : Nat
  outcome : TestOutcome
  verdict : VerdictState
  lateCount : Nat
deriving DecidableEq, Repr

/-- An alarm record (R109, R118). -/
structure AlarmRecord where
  cause : AlarmCause
  day : Nat
  nnf : Int
  excess : Int
  baseline : Int
  cusum : Nat
  persistence : Nat
deriving DecidableEq, Repr

/-- A zone's verdict record (R109). -/
structure Verdict where
  baseline : Int
  count : Nat
  cusum : Nat
  persistence : Nat
  state : VerdictState
  last : Option ResultRecord
  waiting : Option ResultRecord
  alarm : Option AlarmRecord
  survey : Option ResultRecord
deriving DecidableEq, Repr

/-- The initial state of a verdict record (R109). -/
def Verdict.initial : Verdict :=
  { baseline := 0, count := 0, cusum := 0, persistence := 0, state := .learning,
    last := none, waiting := none, alarm := none, survey := none }

/-! ### Notice Unit (R131, R132) -/

/-- The change flags of a zone entry (R131). -/
structure Flags where
  result : Bool
  verdict : Bool
  skip : Bool
  survey : Bool
deriving DecidableEq, Repr

/-- The flags of the system entry, its blocked mark and the notice queue; entry 0 is the system entry,
1 to 256 a zone (R131, R132). -/
structure Notices where
  queue : List Nat
  meter : Bool
  pool : Bool
  blocked : Bool
deriving DecidableEq, Repr

/-- Everything the blocks hold for one zone number: the Zone Table's entry (none when UNDEFINED), the
Verdict Unit's record, the Night Store's three descriptors and skip record, the Notice Unit's flags and
blocked mark (R1, R72, R87, R109, R131, R132). -/
structure Zone where
  entry : Option ZoneEntry
  verdict : Verdict
  night0 : Option Night
  night1 : Option Night
  night2 : Option Night
  skip : Option SkipRecord
  flags : Flags
  blocked : Bool
deriving DecidableEq, Repr

/-- A zone number as every reset leaves it (R18, R72, R87, R109, R131, R132). -/
def Zone.initial : Zone :=
  { entry := none, verdict := Verdict.initial, night0 := none, night1 := none, night2 := none, skip := none,
    flags := { result := false, verdict := false, skip := false, survey := false }, blocked := false }

/-! ### Meter Table and chains (R12, R50, R66) -/

/-- Meter kinds (R12). -/
inductive MeterKind where
  | bulk | bidir | pulse
deriving DecidableEq, Repr

/-- A reading of a chain (R50). -/
structure Reading where
  time : Nat
  forward : Nat
  reverse : Option Nat
  noisy : Option Bool
deriving DecidableEq, Repr

/-- Exception codes (R66). -/
inductive ExceptionCode where
  | stale | conflict | spike | late | noisy
deriving DecidableEq, Repr

/-- A meter's exception record when it is set (R66). -/
structure ExceptionRecord where
  code : ExceptionCode
  time : Nat
  count : Nat
deriving DecidableEq, Repr

/-- A defined meter (R12); `modulus` and `scale` are the values, not their codes. -/
structure Meter where
  tag : Nat
  kind : MeterKind
  upstream : Nat
  downstream : Nat
  modulus : Nat
  scale : Nat
  maxRate : Nat
  maxGap : Nat
  channel : Option Nat
  cut : Option Nat
  chain : List Reading
  exceptions : Option ExceptionRecord
deriving DecidableEq, Repr

/-! ### Site Clock and settings (R19, R30) -/

/-- The Site Clock (R19); `running` is the set flag, RUN when set and COLD when clear. -/
structure Clock where
  time : Nat
  running : Bool
  epoch : Nat
deriving DecidableEq, Repr

/-- Notice modes (R30, R132, R133). -/
inductive NoticeMode where
  | grouped | single
deriving DecidableEq, Repr

/-- What SYSTEM SET sets (R30). -/
structure Settings where
  slotLength : Nat
  reserve : Nat
  noticeMode : NoticeMode
  interval : Nat
deriving DecidableEq, Repr

/-! ### Pulse Counter Unit (R43, R44) -/

/-- A channel record (R43), whether a low period is under measurement (R44), and the level of its line. -/
structure Channel where
  enable : Bool
  width : Nat
  noiseLimit : Nat
  count : Nat
  rejected : Nat
  measuring : Bool
  lineLow : Bool
deriving DecidableEq, Repr

/-- A channel record as every reset leaves it (R43), its line idle high (log 18). -/
def Channel.initial : Channel :=
  { enable := false, width := 10, noiseLimit := 0, count := 0, rejected := 0, measuring := false, lineLow := false }

/-! ### Intake Queue (R35, R36) -/

/-- Where a waiting reading came from (R35). -/
inductive Origin where
  | host
  | channel (number : Nat)
deriving DecidableEq, Repr

/-- A waiting reading (R35). `issue` is its place in the order of issue; its intake number is that place
modulo 2^32 (R36, log 9). -/
structure Waiting where
  issue : Nat
  meter : Nat
  reading : Reading
  origin : Origin
deriving DecidableEq, Repr

/-- The Intake Queue: the waiting readings, earliest issued first, and the next place in the order of
issue (R35, R36). -/
structure Intake where
  queue : List Waiting
  next : Nat
deriving DecidableEq, Repr

/-! ### Chain Unit (R40, R51) -/

/-- Why a segment is bad (R59). -/
inductive BadCause where
  | noisy | gap | spike
deriving DecidableEq, Repr

/-- A judged segment (R58, R59); no cause means good. -/
structure Segment where
  t1 : Nat
  t2 : Nat
  volume : Int
  bad : Option BadCause
deriving DecidableEq, Repr

/-- What a chain decision leaves to do at the nights (R53 to R56, R63): a conflict, or the segment to
withdraw and the segments to place. -/
inductive ChainChange where
  | conflict
  | segments (old : Option Segment) (new : List Segment)
deriving DecidableEq, Repr

/-- An application in flight (R51): its reading, what its chain decision did, the nights it need not reach
(reached already, or opened meanwhile) and whether it has recorded LATE (R66). -/
structure Application where
  waiting : Waiting
  change : ChainChange
  reached : List NightRef
  late : Bool
deriving DecidableEq, Repr

/-- The Chain Unit (R40, R51): idle, a reading in hand whose application has not begun, or an application. -/
inductive ChainUnit where
  | idle
  | inHand (w : Waiting)
  | applying (a : Application)
deriving DecidableEq, Repr

/-! ### Assessor (R92 to R101) -/

/-- The assessment in flight: the night, and what was computed at its start (R95, R98, R99, R101). -/
structure Flight where
  night : NightRef
  completeCount : Nat
  mnf : Int
  runStart : Nat
  lnu : Nat
deriving DecidableEq, Repr

/-- The assessment queue and the assessment in flight, none when idle (R92, R93). -/
structure Assessor where
  queue : List NightRef
  flight : Option Flight
deriving DecidableEq, Repr

/-! ### Stream Unit (R137 to R142) -/

/-- End causes (R137). -/
inductive EndCause where
  | done | stopped | gone | flushed
deriving DecidableEq, Repr

/-- What a stream walks: the next zone and how many zones of the range are left (R138, R139), or the night
followed, how many of its slots are left to send, and whether its record is still the one held (R142). -/
inductive StreamBody where
  | once (next left : Nat)
  | step (next left : Nat)
  | profile (night : NightRef) (left : Nat) (held : Bool)
deriving DecidableEq, Repr

/-- Where a stream stands (R137): its reply not yet transmitted, a frame offered, a frame in transmission,
the interval running (in character times), or its end frame offered without a wait. -/
inductive StreamPhase where
  | awaitReply
  | offered
  | sending
  | interval (characters : Nat)
  | ending (cause : EndCause)
deriving DecidableEq, Repr

/-- The stream in flight (R137): `seq` is the next sequence number, `sent` the items sent so far. -/
structure Stream where
  body : StreamBody
  phase : StreamPhase
  seq : Nat
  sent : Nat
deriving DecidableEq, Repr

/-! ### Link Controller (R145 to R155) -/

/-- Link rates (R145). -/
inductive Rate where
  | b9600 | b38400 | b115200 | b460800
deriving DecidableEq, Repr

/-- Link parity (R145). -/
inductive Parity where
  | none | even | odd
deriving DecidableEq, Repr

/-- The character receiver on RXD (R146): the line idle high, in a character with the levels taken since its
start bit, or waiting for the line to return high after a low stop bit. -/
inductive LineReceiver where
  | idle
  | inCharacter (bits : List Bool)
  | awaitHigh
deriving DecidableEq, Repr

/-- The frame receiver (R148): hunting, or in a frame with the bytes taken since its SYNC. -/
inductive Receiver where
  | hunting
  | inFrame (got : List Byte)
deriving DecidableEq, Repr

/-- Causes of a REJECT (R153). -/
inductive RejectCause where
  | charError | check | timeout | tooLong | overrun
deriving DecidableEq, Repr

/-- A REJECT of the reject queue (R153). -/
structure Reject where
  cause : RejectCause
  tag : Byte
deriving DecidableEq, Repr

/-- A request held in the receive buffer (R151). -/
structure Held where
  kind : Byte
  tag : Byte
  request : Request
deriving DecidableEq, Repr

/-- The reply of an executed request (R152): its KIND and BODY, whether its end starts a stream (R137), and
how many of the REJECTs now in the queue were offered before it (R154: "the first offered"). -/
structure Reply where
  kind : Byte
  body : List Byte
  startsStream : Bool
  ahead : Nat
deriving DecidableEq, Repr

/-- The head place (R151, R152); a request without its reply waits for the Chain Unit. -/
structure Head where
  held : Held
  reply : Option Reply
deriving DecidableEq, Repr

/-- A frame of the part (R160), without its envelope's SYNC, LEN and CRC, which follow from it. -/
structure Frame where
  kind : Byte
  tag : Byte
  body : List Byte
deriving DecidableEq, Repr

/-- What a frame in transmission is (R154). -/
inductive Source where
  | reply (startsStream : Bool)
  | reject
  | notice
  | streamFrame
  | endFrame
deriving DecidableEq, Repr

/-- The frame in transmission (R154). -/
structure Sending where
  frame : Frame
  source : Source
deriving DecidableEq, Repr

/-- The Link Controller and the levels of HOLD and RESET (R145 to R157). -/
structure Link where
  resetLow : Bool
  hold : Bool
  rate : Rate
  parity : Parity
  line : LineReceiver
  rx : Receiver
  head : Option Head
  second : Option Held
  rejects : List Reject
  sending : Option Sending
deriving DecidableEq, Repr

/-- The Link Controller at the release of RESET with these rate and parity (R145, R151, R153, R157). -/
def Link.released (rate : Rate) (parity : Parity) (hold : Bool) : Link :=
  { resetLow := false, hold := hold, rate := rate, parity := parity, line := .idle, rx := .hunting, head := none, second := none,
    rejects := [], sending := none }

/-- The NF256. `pending` is the queue of commands that wait; `world` and `choices` carry the world's choices
(log 1): both are the model's own. -/
structure State where
  zones : List (Nat × Zone)
  meters : List (Nat × Meter)
  clock : Clock
  settings : Settings
  channels : List (Nat × Channel)
  intake : Intake
  chain : ChainUnit
  assess : Assessor
  notices : Notices
  stream : Option Stream
  link : Link
  pending : List Instr
  world : List Nat
  choices : Nat
deriving DecidableEq, Repr

/-- The spec names no event that stops the part: a wrong request is answered with a status (R2, R152), a
wrong frame with a REJECT (R150), so no meaning raises a fault. Safe: nothing is left out by it. -/
inductive Fault where
deriving DecidableEq, Repr

/-- Why a command has no meaning. -/
inductive Refusal where
  /-- Raised by `exec` alone, for a command of the table that has no meaning yet (none is left); safe. -/
  | notModelled (mnemonic : String)
deriving DecidableEq, Repr

/-- The machine right after reset: R18, R19, R30, R36, R43, R49, R72, R74, R87, R92, R93, R109, R131, R132,
R136, R137, R151, R153, R154, R157. Levels of lines and straps: log 4, log 18. -/
def State.reset : State :=
  { zones := [], meters := [],
    clock := { time := 0, running := false, epoch := 0 },
    settings := { slotLength := 15, reserve := 512, noticeMode := .grouped, interval := 0 },
    channels := [],
    intake := { queue := [], next := 1 },
    chain := .idle,
    assess := { queue := [], flight := none },
    notices := { queue := [], meter := false, pool := false, blocked := false },
    stream := none,
    link := Link.released .b9600 .none false,
    pending := [], world := [], choices := 0 }

end Sys2Proof.Machine
end

