-- ==== Sys2Proof/Machine/Ops.lean ====
section
/-! DEFINITION. The shared operations over the part's tables: reading and writing a zone, a meter, a channel
and a night; the views the spec names (tag map, boundary, bound meter, pool, outstanding readings, ATTN); the
world's choice among acts whose order the spec leaves open. -/

namespace Sys2Proof.Machine

/-! ### Sparse tables (log 11) -/

/-- The record listed under a number. -/
def Table.find {α : Type} (k : Nat) : List (Nat × α) → Option α
  | [] => none
  | (i, v) :: rest => if i = k then some v else Table.find k rest

/-- A record listed under a number, at its place in rising order. -/
def Table.put {α : Type} (k : Nat) (v : α) : List (Nat × α) → List (Nat × α)
  | [] => [(k, v)]
  | (i, w) :: rest =>
    if i = k then (k, v) :: rest else if k < i then (k, v) :: (i, w) :: rest else (i, w) :: Table.put k v rest

/-- Nothing listed under a number. -/
def Table.del {α : Type} (k : Nat) (t : List (Nat × α)) : List (Nat × α) := t.filter (fun p => p.1 ≠ k)

/-- The canonical form of a sparse table: numbers strictly rising, no record equal to the default. -/
def Table.wf {α : Type} [DecidableEq α] (default : Option α) : List (Nat × α) → Bool
  | [] => true
  | (i, v) :: rest => rest.all (fun p => i < p.1) && (some v != default : Bool) && Table.wf default rest

/-- What the blocks hold for a zone number (R1, R72, R109, R131). -/
def State.zone (s : State) (z : Nat) : Zone := (Table.find z s.zones).getD Zone.initial

/-- The zone table with one zone number's record replaced, in canonical form. -/
def State.setZone (s : State) (z : Nat) (v : Zone) : State :=
  { s with zones := if v = Zone.initial then Table.del z s.zones else Table.put z v s.zones }

/-- The Zone Table's entry of a zone, none when it is UNDEFINED (R1). -/
def State.entry (s : State) (z : Nat) : Option ZoneEntry := (s.zone z).entry

/-- The zone's entry replaced (R1). -/
def State.setEntry (s : State) (z : Nat) (e : Option ZoneEntry) : State := s.setZone z { s.zone z with entry := e }

/-- The zone's verdict record replaced (R109). -/
def State.setVerdict (s : State) (z : Nat) (v : Verdict) : State := s.setZone z { s.zone z with verdict := v }

/-- The meter a meter index holds (R12). -/
def State.meter (s : State) (i : Nat) : Option Meter := Table.find i s.meters

/-- A meter stored at its index (R12). -/
def State.putMeter (s : State) (i : Nat) (m : Meter) : State := { s with meters := Table.put i m s.meters }

/-- A meter index freed (R13). -/
def State.delMeter (s : State) (i : Nat) : State := { s with meters := Table.del i s.meters }

/-- The record of a pulse channel (R43). -/
def State.channel (s : State) (c : Nat) : Channel := (Table.find c s.channels).getD Channel.initial

/-- A channel record replaced, in canonical form (R43). -/
def State.setChannel (s : State) (c : Nat) (v : Channel) : State :=
  { s with channels := if v = Channel.initial then Table.del c s.channels else Table.put c v s.channels }

/-! ### The world's choice (log 1) -/

/-- One of `n` acts that may come next: the world's next choice, or where none is scheduled the free value. -/
def choose (n : Nat) (s : State) : Nat × State :=
  if n ≤ 1 then (0, s)
  else
    match s.world with
    | c :: rest => (c % n, { s with world := rest })
    | [] => (Config.pick s.choices % n, { s with choices := s.choices + 1 })

/-! ### Site time (R24) -/

/-- The site day number of a site time (R24). -/
def siteDay (t : Nat) : Nat := t / 86400

/-- The weekday of a site day (R24). -/
def State.weekday (s : State) (day : Nat) : Nat := (day + s.clock.epoch) % 7

/-- L, the length of a slot in seconds (R60). -/
def State.slotSeconds (s : State) : Nat := s.settings.slotLength * 60

/-! ### Meters, boundaries and channels (R11, R13, R17) -/

/-- A pair of tag and index entered into the tag map at its place in order of tag (R13). -/
def TagMap.enter (p : Nat × Nat) : List (Nat × Nat) → List (Nat × Nat)
  | [] => [p]
  | q :: rest => if p.1 ≤ q.1 then p :: q :: rest else q :: TagMap.enter p rest

/-- The tag map: the pairs of tag and index of the defined meters, in order of tag (R13). -/
def State.tagMap (s : State) : List (Nat × Nat) := s.meters.foldr (fun p t => TagMap.enter (p.2.tag, p.1) t) []

/-- The meter index the tag map gives for a tag (R13). -/
def State.meterByTag (s : State) (tag : Nat) : Option Nat := Table.find tag s.tagMap

/-- The lowest index from `k` on that no listed meter holds, the list being in rising order (R13). -/
def lowestFree (k : Nat) : List (Nat × Meter) → Nat
  | [] => k
  | (i, _) :: rest => if k < i then k else lowestFree (i + 1) rest

/-- A meter's role in a zone's boundary (R11). -/
def Meter.role (m : Meter) (z : Nat) : Option Role :=
  if m.downstream = z then some .inflow else if m.upstream = z then some .outflow else none

/-- A zone's boundary, in ascending order of meter index (R11). -/
def State.boundary (s : State) (z : Nat) : List Required :=
  s.meters.filterMap fun p => (p.2.role z).map fun r => { meter := p.1, role := r }

/-- The bound meter of a channel (R17). -/
def State.boundMeter (s : State) (c : Nat) : Option (Nat × Meter) := s.meters.find? fun p => p.2.channel = some c

/-! ### The Intake Queue and the outstanding readings (R35, R36, R41) -/

/-- The intake number of a place in the order of issue (R36). -/
def intakeNumber (issue : Nat) : Nat := issue % 4294967296

/-- Host places taken (R35). -/
def State.hostWaiting (s : State) : Nat := (s.intake.queue.filter fun w => w.origin = .host).length

/-- Host places free (R35, R37). -/
def State.hostFree (s : State) : Nat := Config.hostPlaces - s.hostWaiting

/-- The reading a channel's reserved place holds (R35, R43). -/
def State.reserved (s : State) (c : Nat) : Option Waiting := s.intake.queue.find? fun w => w.origin = .channel c

/-- The reading in hand, until its application ends (R40). -/
def State.inHand (s : State) : Option Waiting :=
  match s.chain with
  | .idle => none
  | .inHand w => some w
  | .applying a => some a.waiting

/-- The outstanding readings: the one in hand, then those waiting, in order of issue (R41). -/
def State.outstanding (s : State) : List Waiting := s.inHand.toList ++ s.intake.queue

/-- A reading entered behind every other, with the next place in the order of issue (R36, R39, R45). -/
def State.enqueue (s : State) (meter : Nat) (r : Reading) (origin : Origin) : State :=
  { s with
    intake :=
      { queue := s.intake.queue ++ [{ issue := s.intake.next, meter := meter, reading := r, origin := origin }],
        next := s.intake.next + 1 } }

/-- Waiting readings removed from the queue (R42). -/
def State.dequeueWhere (s : State) (p : Waiting → Bool) : State :=
  { s with intake := { s.intake with queue := s.intake.queue.filter fun w => !p w } }

/-! ### Nights (R72 to R74) -/

/-- The night record a descriptor holds (R72). -/
def Zone.night (v : Zone) : Nat → Option Night
  | 0 => v.night0
  | 1 => v.night1
  | 2 => v.night2
  | _ => none

/-- A descriptor's night record replaced (R72). -/
def Zone.setNight (v : Zone) (d : Nat) (n : Option Night) : Zone :=
  match d with
  | 0 => { v with night0 := n }
  | 1 => { v with night1 := n }
  | 2 => { v with night2 := n }
  | _ => v

/-- The night record a descriptor of a zone holds. -/
def State.night (s : State) (r : NightRef) : Option Night := (s.zone r.zone).night r.desc

/-- The night record of a descriptor replaced. -/
def State.setNight (s : State) (r : NightRef) (n : Option Night) : State :=
  s.setZone r.zone ((s.zone r.zone).setNight r.desc n)

/-- The nights a zone holds, by descriptor. -/
def Zone.nights (z : Nat) (v : Zone) : List (NightRef × Night) :=
  [0, 1, 2].filterMap fun d => (v.night d).map fun n => ({ zone := z, desc := d }, n)

/-- Every night record in existence (R72). -/
def State.nights (s : State) : List (NightRef × Night) := s.zones.flatMap fun p => p.2.nights p.1

/-- Slot records a night holds; none while ARMED (R74). -/
def heldBy : Option Night → Nat
  | none => 0
  | some n => n.slots.length

/-- Slot records held by regular nights (R75, R91). -/
def State.regularHeld (s : State) : Nat := (s.zones.map fun p => heldBy p.2.night0 + heldBy p.2.night1).sum

/-- Slot records held by survey nights (R91). -/
def State.surveyHeld (s : State) : Nat := (s.zones.map fun p => heldBy p.2.night2).sum

/-- Free slot records: those of the 8192 that no night holds (R74). -/
def State.freeSlots (s : State) : Nat := Config.pool - (s.regularHeld + s.surveyHeld)

/-- A night's window end for slots of `L` seconds (R26, R73). -/
def Night.windowEnd (L : Nat) (n : Night) : Nat := n.start + n.slotCount * L

/-- A night that still accepts placements (R73: OPEN, CLOSING, DRAINING). -/
def Night.tracked (n : Night) : Bool := n.state = .opened || n.state = .closing || n.state = .draining

/-- A frozen night (QUEUED, ASSESSING). -/
def Night.frozen (n : Night) : Bool := n.state = .queued || n.state = .assessing

/-! ### Lines (R136, R147, R157) -/

/-- The ATTN line (R136); it stays deasserted while RESET is held low (R157). -/
def State.attn (s : State) : Bool := !s.link.resetLow && !s.notices.queue.isEmpty

/-- TXD rests high: no frame is in transmission (R147, R157). The levels during a transmission are State.txd. -/
def State.txdHigh (s : State) : Bool := s.link.sending.isNone

end Sys2Proof.Machine
end

