-- ==== Sys2Proof/Machine/Flags.lean ====
section
/-! DEFINITION. The change flags (R131): raising a flag and what it does to the notice queue (R132, R133),
acknowledging (R135), the flag byte (R161), the skip record (R87) and the exception record (R66), which raise
flags. -/

namespace Sys2Proof.Machine

/-- The four flags of a zone entry (R131). -/
inductive ZoneFlag where
  | result | verdict | skip | survey
deriving DecidableEq, Repr

/-- Whether a zone flag is set. -/
def Flags.get (f : Flags) : ZoneFlag → Bool
  | .result => f.result
  | .verdict => f.verdict
  | .skip => f.skip
  | .survey => f.survey

/-- A zone flag set. -/
def Flags.set (f : Flags) : ZoneFlag → Flags
  | .result => { f with result := true }
  | .verdict => { f with verdict := true }
  | .skip => { f with skip := true }
  | .survey => { f with survey := true }

/-- Some flag of the zone entry is set. -/
def Flags.any (f : Flags) : Bool := f.result || f.verdict || f.skip || f.survey

/-- The flag byte of a zone entry: bits 0 to 3 (R161). -/
def Flags.code (f : Flags) : Nat :=
  (if f.result then 1 else 0) + (if f.verdict then 2 else 0) + (if f.skip then 4 else 0) + (if f.survey then 8 else 0)

/-- The flag byte of the system entry: bits 4 and 5 (R161). -/
def Notices.code (n : Notices) : Nat := (if n.meter then 16 else 0) + (if n.pool then 32 else 0)

/-- An entry's flags as the flag byte: 0 is the system entry, 1 to 256 a zone (R161). -/
def State.flagByte (s : State) (entry : Nat) : Nat :=
  if entry = 0 then s.notices.code else (s.zone entry).flags.code

/-- Whether an entry is blocked (R132). -/
def State.blocked (s : State) (entry : Nat) : Bool :=
  if entry = 0 then s.notices.blocked else (s.zone entry).blocked

/-- An entry blocked or unblocked (R132, R134, R135). -/
def State.setBlocked (s : State) (entry : Nat) (b : Bool) : State :=
  if entry = 0 then { s with notices := { s.notices with blocked := b } }
  else s.setZone entry { s.zone entry with blocked := b }

/-- Whether an entry is queued (R132). -/
def State.queued (s : State) (entry : Nat) : Bool := s.notices.queue.contains entry

/-- An entry one of whose flags went from clear to set: it joins the tail of the queue if it is not queued
and, in GROUPED mode, not blocked (R132, R133). -/
def State.joinQueue (s : State) (entry : Nat) : State :=
  if s.queued entry || (s.settings.noticeMode = .grouped && s.blocked entry) then s
  else { s with notices := { s.notices with queue := s.notices.queue ++ [entry] } }

/-- A zone's flag raised; only the change from clear to set acts on the queue (R131). -/
def State.raise (s : State) (z : Nat) (f : ZoneFlag) : State :=
  if (s.zone z).flags.get f then s
  else (s.setZone z { s.zone z with flags := (s.zone z).flags.set f }).joinQueue z

/-- A zone's flag raised if a condition holds. -/
def State.raiseIf (s : State) (c : Bool) (z : Nat) (f : ZoneFlag) : State := if c then s.raise z f else s

/-- The system flag METER raised (R66, R131). -/
def State.raiseMeter (s : State) : State :=
  if s.notices.meter then s else { s with notices := { s.notices with meter := true } }.joinQueue 0

/-- The system flag POOL raised (R87, R131). -/
def State.raisePool (s : State) : State :=
  if s.notices.pool then s else { s with notices := { s.notices with pool := true } }.joinQueue 0

/-- The flags of an entry named by a flag byte cleared (R135, R161). -/
def State.clearFlags (s : State) (entry flags : Nat) : State :=
  if entry = 0 then
    { s with notices := { s.notices with meter := s.notices.meter && !flags.testBit 4,
                                         pool := s.notices.pool && !flags.testBit 5 } }
  else
    let f := (s.zone entry).flags
    s.setZone entry
      { s.zone entry with
        flags := { result := f.result && !flags.testBit 0, verdict := f.verdict && !flags.testBit 1,
                   skip := f.skip && !flags.testBit 2, survey := f.survey && !flags.testBit 3 } }

/-- An entry left with no flag set leaves the queue and becomes unblocked (R135). -/
def State.retireEntry (s : State) (entry : Nat) : State :=
  if s.flagByte entry = 0 then
    { s with notices := { s.notices with queue := s.notices.queue.filter (· ≠ entry) } }.setBlocked entry false
  else s

/-- ACK carried out (R135). -/
def State.acknowledge (s : State) (entry flags : Nat) : State := (s.clearFlags entry flags).retireEntry entry

/-- The notice the arbiter starts for an entry: the entry leaves the queue, and in GROUPED mode becomes
blocked (R134). -/
def State.buildNotice (s : State) (entry : Nat) : State :=
  let s1 := { s with notices := { s.notices with queue := s.notices.queue.filter (· ≠ entry) } }
  if s.settings.noticeMode = .grouped then s1.setBlocked entry true else s1

/-- Every entry unblocked, as a change from GROUPED to SINGLE does (R133). -/
def State.unblockAll (s : State) : State :=
  { s with
    zones := (s.zones.map fun p => (p.1, { p.2 with blocked := false })).filter fun p => p.2 ≠ Zone.initial
    notices := { s.notices with blocked := false } }

/-- A skip record after one more skip, its SKIP flag set or clear before it (R87). -/
def nextSkip (old : Option SkipRecord) (flagSet : Bool) (cause : SkipCause) (day : Nat) : SkipRecord :=
  match flagSet, old with
  | true, some r => { r with count := min (r.count + 1) 255 }
  | _, _ => { cause := cause, day := day, count := 1 }

/-- A skip recorded against a zone (R87): the record, the SKIP flag and for cause POOL the system flag. -/
def State.recordSkip (s : State) (z : Nat) (cause : SkipCause) (day : Nat) : State :=
  let v := s.zone z
  let s1 := (s.setZone z { v with skip := some (nextSkip v.skip v.flags.skip cause day) }).raise z .skip
  if cause = .pool then s1.raisePool else s1

/-- An exception record after one more exception (R66). -/
def nextException (old : Option ExceptionRecord) (code : ExceptionCode) (time : Nat) : ExceptionRecord :=
  match old with
  | some r => { r with count := min (r.count + 1) 255 }
  | none => { code := code, time := time, count := 1 }

/-- An exception recorded against a meter; a record that was empty raises METER (R66). -/
def State.recordException (s : State) (i : Nat) (code : ExceptionCode) (time : Nat) : State :=
  match s.meter i with
  | none => s
  | some m =>
    let s1 := s.putMeter i { m with exceptions := some (nextException m.exceptions code time) }
    if m.exceptions.isNone then s1.raiseMeter else s1

/-- An exception recorded if a condition holds. -/
def State.recordExceptionIf (s : State) (c : Bool) (i : Nat) (code : ExceptionCode) (time : Nat) : State :=
  if c then s.recordException i code time else s

/-- A meter's exception record emptied (R66). -/
def State.emptyExceptions (s : State) (i : Nat) : State :=
  match s.meter i with
  | none => s
  | some m => s.putMeter i { m with exceptions := none }

end Sys2Proof.Machine
end

