-- ==== Sys2Proof/Machine/Segments.lean ====
section
/-! DEFINITION. Segments and slots, as pure functions: a segment's deltas, volume and judgement (R58, R59),
its shares (R60), placing it into and withdrawing it from a night (R61, R63, R78), completeness (R79) and
defects (R84). -/

namespace Sys2Proof.Machine

/-! ### Judging a segment (R58, R59) -/

/-- A register delta: later minus earlier plus the modulus, modulo the modulus (R58). -/
def registerDelta (modulus earlier later : Nat) : Nat := (later + modulus - earlier) % modulus

/-- A segment's forward delta (R58). -/
def Meter.forwardDelta (m : Meter) (a b : Reading) : Nat := registerDelta m.modulus a.forward b.forward

/-- A segment's reverse delta, of a meaning for a BIDIR meter only (R58). -/
def Meter.reverseDelta (m : Meter) (a b : Reading) : Nat :=
  registerDelta m.modulus (a.reverse.getD 0) (b.reverse.getD 0)

/-- A segment's volume in dL (R58). -/
def Meter.volume (m : Meter) (a b : Reading) : Int :=
  if m.kind = .bidir then ((m.forwardDelta a b : Int) - m.reverseDelta a b) * m.scale
  else (m.forwardDelta a b : Int) * m.scale

/-- The most that may pass in a segment's duration: the maximum rate times the duration divided by 3600 (R59). -/
def Meter.allowance (m : Meter) (a b : Reading) : Nat := m.maxRate * (b.time - a.time) / 3600

/-- A segment too fast to be believed (R59, third step). -/
def Meter.spikes (m : Meter) (a b : Reading) : Bool :=
  m.allowance a b < m.forwardDelta a b * m.scale ||
    (m.kind = .bidir && m.allowance a b < m.reverseDelta a b * m.scale) ||
    m.volume a b < -2147483647 || 2147483647 < m.volume a b

/-- The cause that makes a segment bad, none when it is good; the first of the three steps decides (R59). -/
def Meter.badCause (m : Meter) (a b : Reading) : Option BadCause :=
  if a.noisy = some true ∨ b.noisy = some true then some .noisy
  else if m.maxGap < b.time - a.time then some .gap
  else if m.spikes a b then some .spike
  else none

/-- The segment between two readings, judged (R58, R59). -/
def Meter.segment (m : Meter) (a b : Reading) : Segment :=
  { t1 := a.time, t2 := b.time, volume := m.volume a b, bad := m.badCause a b }

/-- The segments of a chain, between neighbouring readings. -/
def Meter.segmentsOf (m : Meter) : List Reading → List Segment
  | a :: b :: rest => m.segment a b :: m.segmentsOf (b :: rest)
  | _ => []

/-! ### Shares (R60) -/

/-- The share of a segment's volume up to an instant, truncated toward zero (R60). -/
def Segment.share (g : Segment) (x : Nat) : Int := (g.volume * ((x - g.t1 : Nat) : Int)).tdiv ((g.t2 - g.t1 : Nat) : Int)

/-- Where the overlap of a segment with a span [a, b) begins (R60). -/
def Segment.overlapStart (g : Segment) (a : Nat) : Nat := max g.t1 a

/-- Where the overlap of a segment with a span [a, b) ends (R60). -/
def Segment.overlapEnd (g : Segment) (b : Nat) : Nat := min g.t2 b

/-- A segment overlaps a span [a, b) (R60). -/
def Segment.overlaps (g : Segment) (a b : Nat) : Bool := g.overlapStart a < g.overlapEnd b

/-- The slot volume of a segment in an overlapping span (R60). -/
def Segment.volumeIn (g : Segment) (a b : Nat) : Int := g.share (g.overlapEnd b) - g.share (g.overlapStart a)

/-- The slot coverage of a segment in an overlapping span, in seconds (R60). -/
def Segment.coverageIn (g : Segment) (a b : Nat) : Nat := g.overlapEnd b - g.overlapStart a

/-! ### Slots and nights (R61, R63, R78) -/

/-- A volume added to a slot's inflow or outflow, by the role (R61). -/
def Slot.addVolume (x : Slot) (role : Role) (v : Int) : Slot :=
  match role with
  | .inflow => { x with inflow := x.inflow + v }
  | .outflow => { x with outflow := x.outflow + v }

/-- A segment placed into the slot that begins at `a` (R61). -/
def Slot.place (L : Nat) (g : Segment) (pos : Nat) (role : Role) (a : Nat) (x : Slot) : Slot :=
  if g.overlaps a (a + L) then
    { x.addVolume role (g.volumeIn a (a + L)) with covered := x.covered.modify pos (· + g.coverageIn a (a + L)) }
  else x

/-- A segment withdrawn from the slot that begins at `a` (R63). -/
def Slot.withdraw (L : Nat) (g : Segment) (pos : Nat) (role : Role) (a : Nat) (x : Slot) : Slot :=
  if g.overlaps a (a + L) then
    { x.addVolume role (-g.volumeIn a (a + L)) with covered := x.covered.modify pos (· - g.coverageIn a (a + L)) }
  else x

/-- A function of a slot's beginning applied to consecutive slots from `a` on (R78). -/
def mapSlots (L : Nat) (f : Nat → Slot → Slot) : Nat → List Slot → List Slot
  | _, [] => []
  | a, x :: rest => f a x :: mapSlots L f (a + L) rest

/-- A meter's position and role in a required set, counting from `k` (R61, R76). -/
def positionFrom (k meter : Nat) : List Required → Option (Nat × Role)
  | [] => none
  | q :: rest => if q.meter = meter then some (k, q.role) else positionFrom (k + 1) meter rest

/-- A meter's position and role in a night (R61). -/
def Night.position (n : Night) (meter : Nat) : Option (Nat × Role) := positionFrom 0 meter n.required

/-- A night requires a meter (R15, R61). -/
def Night.requires (n : Night) (meter : Nat) : Bool := (n.position meter).isSome

/-- A segment concerns a night of the meter's zones (R61): required, not ARMED, overlapping its slots. -/
def Night.concernedBy (L : Nat) (n : Night) (meter : Nat) (g : Segment) : Bool :=
  n.requires meter && (n.state != .armed) && g.overlaps n.start (n.windowEnd L)

/-- A good segment placed into a night; a bad one places nothing (R59, R61). -/
def Night.place (L : Nat) (meter : Nat) (g : Segment) (n : Night) : Night :=
  match g.bad, n.position meter with
  | none, some (pos, role) => { n with slots := mapSlots L (Slot.place L g pos role) n.start n.slots }
  | _, _ => n

/-- A good segment withdrawn from a night; a bad one placed nothing (R63). -/
def Night.withdraw (L : Nat) (meter : Nat) (g : Segment) (n : Night) : Night :=
  match g.bad, n.position meter with
  | none, some (pos, role) => { n with slots := mapSlots L (Slot.withdraw L g pos role) n.start n.slots }
  | _, _ => n

/-- Every segment of a list placed into a night. -/
def Night.placeAll (L : Nat) (meter : Nat) (gs : List Segment) (n : Night) : Night :=
  gs.foldl (fun n g => n.place L meter g) n

/-- A slot with nothing placed, for a required set of `m` positions (R78). -/
def Slot.zero (m : Nat) : Slot := { inflow := 0, outflow := 0, covered := List.replicate m 0 }

/-- A slot is complete when the count at every position equals L (R79). -/
def Slot.complete (L : Nat) (x : Slot) : Bool := x.covered.all fun c => c = L

/-- A night is complete when every one of its slots is (R79). -/
def Night.complete (L : Nat) (n : Night) : Bool := n.slots.all (Slot.complete L)

/-! ### Defects (R65, R84) -/

/-- The defect a bad segment hands: SPIKE and NOISY hand their cause, GAP hands none (R65). -/
def BadCause.defect : BadCause → Option Quality
  | .noisy => some .noisy
  | .gap => none
  | .spike => some .spike

/-- The defect a segment hands, none for a good one (R65). -/
def Segment.defect (g : Segment) : Option Quality := g.bad.bind BadCause.defect

/-- A defect received by a tracked night whose code is CLEAN replaces it; otherwise nothing changes (R84). -/
def Night.receive (d : Quality) (n : Night) : Night :=
  if n.tracked && n.quality = .clean then { n with quality := d } else n

/-- A list of defects received in turn. -/
def Night.receiveAll (ds : List Quality) (n : Night) : Night := ds.foldl (fun n d => n.receive d) n

/-- A night's window overlaps a span of site time (R85). -/
def Night.overlapsSpan (L : Nat) (n : Night) (p : Span) : Bool := n.start < p.stop && p.start < n.windowEnd L

end Sys2Proof.Machine
end

