-- ==== Sys2Proof/Machine/Nights.lean ====
section
/-! DEFINITION. The Night Store (R72 to R90): releasing, draining and freezing nights, the end of an
application and of a drain's wait, opening regular and survey nights, window ends and deadlines, and the
settle interval. -/

namespace Sys2Proof.Machine

/-! ### Releasing (R83, R88, R89) -/

/-- A night of the application's reached list forgotten, when its record is released (R51). -/
def ChainUnit.forget (r : NightRef) : ChainUnit → ChainUnit
  | .applying a => .applying { a with reached := a.reached.filter (· ≠ r) }
  | c => c

/-- A night opened while an application is in flight is not reached by it (R51). -/
def ChainUnit.skipNight (r : NightRef) : ChainUnit → ChainUnit
  | .applying a => .applying { a with reached := r :: a.reached }
  | c => c

/-- A profile that follows the released night no longer holds its record (R142). -/
def StreamBody.release (r : NightRef) : StreamBody → StreamBody
  | .profile night left held => .profile night left (held && night ≠ r)
  | b => b

/-- A night released: its slot records and its descriptor become free in one act (R83, R89). -/
def State.releaseNight (s : State) (r : NightRef) : State :=
  { s.setNight r none with
    chain := s.chain.forget r
    stream := s.stream.map fun st => { st with body := st.body.release r } }

/-! ### Draining and freezing (R81, R82) -/

/-- The place in the order of issue of the outstanding reading issued last (R41). -/
def State.lastOutstanding (s : State) : Option Nat := (s.outstanding.map (·.issue)).max?

/-- A night frozen: no drain mark, QUEUED, at the tail of the assessment queue (R82). -/
def State.freeze (s : State) (r : NightRef) : State :=
  match s.night r with
  | none => s
  | some n =>
    { s.setNight r (some { n with state := .queued, mark := none }) with
      assess := { s.assess with queue := s.assess.queue ++ [r] } }

/-- A night entering DRAINING takes its drain mark, or freezes at once when no reading is outstanding (R81). -/
def State.enterDraining (s : State) (r : NightRef) : State :=
  match s.night r with
  | none => s
  | some n =>
    match s.lastOutstanding with
    | some m => s.setNight r (some { n with state := .draining, mark := some m })
    | none => s.freeze r

/-- A draining night's wait is over: no outstanding reading was issued at or before its mark (R41). -/
def State.waitOver (s : State) (n : Night) : Bool :=
  n.state = .draining && n.mark.all fun m => s.outstanding.all fun w => m < w.issue

/-- The draining nights whose wait is over (R82). -/
def State.drained (s : State) : List NightRef :=
  s.nights.filterMap fun p => if s.waitOver p.2 then some p.1 else none

/-- Every draining night whose wait is over freezes, in an order the world chooses (R82, R93, log 1). -/
def settleDrainsLoop : Nat → State → State
  | 0, s => s
  | fuel + 1, s =>
    match s.drained with
    | [] => s
    | r :: rest =>
      let (i, s1) := choose (rest.length + 1) s
      settleDrainsLoop fuel (s1.freeze ((r :: rest).getD i r))

/-- Every draining night whose wait is over freezes (R82). -/
def State.settleDrains (s : State) : State := settleDrainsLoop s.drained.length s

/-- The zones whose nights an application concerns: the meter's two, OUTSIDE excepted (R51). -/
def Meter.zones (m : Meter) : List Nat := [m.upstream, m.downstream].filter (· ≠ 0)

/-- The nights an application has still to reach (R51). -/
def State.unreached (s : State) (a : Application) : List NightRef :=
  match s.meter a.waiting.meter with
  | none => []
  | some m => (m.zones.flatMap fun z => ((s.zone z).nights z).map (·.1)).filter fun r => !a.reached.contains r

/-- An application with no night unreached ends, and its reading is dealt with (R40, R51). -/
def State.endApplication (s : State) : State :=
  match s.chain with
  | .applying a => if (s.unreached a).isEmpty then { s with chain := .idle } else s
  | _ => s

/-- What follows any act on nights or readings: the end of an application, then of the drains (R51, R82). -/
def State.quiesce (s : State) : State := s.endApplication.settleDrains

/-! ### Opening (R61, R75 to R78, R85) -/

/-- The placements a night makes at its opening: every good segment in the chain of each required meter (R61). -/
def State.openingPlacements (s : State) (n : Night) : Night :=
  n.required.foldl
    (fun n q =>
      match s.meter q.meter with
      | none => n
      | some m => n.placeAll s.slotSeconds q.meter (m.segmentsOf m.chain))
    n

/-- DISTURBED received at the opening when the window overlaps the zone's settle interval (R85). -/
def State.settleCheck (s : State) (z : Nat) (n : Night) : Night :=
  match (s.entry z).bind (·.settle) with
  | none => n
  | some p => if n.overlapsSpan s.slotSeconds p then n.receive .disturbed else n

/-- A night record opened: the required set, zeroed slot records, the placements and the settle check
(R61, R76, R78, R85). -/
def State.openedNight (s : State) (z : Nat) (n : Night) : Night :=
  let req := s.boundary z
  let fresh := { n with state := .opened, required := req, slots := List.replicate n.slotCount (Slot.zero req.length) }
  s.settleCheck z (s.openingPlacements fresh)

/-- A night opened in a descriptor; an application in flight does not reach it (R51, R75, R77). -/
def State.openNight (s : State) (r : NightRef) (n : Night) : State :=
  { s.setNight r (some (s.openedNight r.zone n)) with chain := s.chain.skipNight r }

/-- A night record as SURVEY ARM, or a regular opening before its opening, fills it (R31, R73). -/
def Night.planned (start slotCount runLength deadline : Nat) : Night :=
  { start := start, slotCount := slotCount, runLength := runLength, deadline := deadline, state := .armed, required := [],
    mark := none, quality := .clean, lateCount := 0, slots := [] }

/-- The deadline of a window: its start, its length and the close delay (R26, R31). -/
def State.deadlineOf (s : State) (start slots delay : Nat) : Nat := start + slots * s.slotSeconds + 60 * delay

/-- The lowest-numbered free regular descriptor (R72, R75). -/
def Zone.freeRegular (v : Zone) : Option Nat :=
  if v.night0.isNone then some 0 else if v.night1.isNone then some 1 else none

/-- A regular opening of `slots` records would pass the pool's limits (R75). -/
def State.poolRefuses (s : State) (slots : Nat) : Bool :=
  Config.pool - s.settings.reserve < s.regularHeld + slots || s.freeSlots < slots

/-- A zone takes a regular window start `w` in an advance to `t1` (R27, R29, R75). -/
def State.regularStart (s : State) (z w t1 : Nat) : State :=
  match s.entry z with
  | none => s
  | some e =>
    match e.window with
    | none => s
    | some win =>
      let deadline := s.deadlineOf w win.slots e.delay
      if 4294967295 < deadline then s
      else if deadline ≤ t1 then s.recordSkip z .clockJump (siteDay w)
      else
        match (s.zone z).freeRegular with
        | none => s.recordSkip z .backlog (siteDay w)
        | some d =>
          if s.poolRefuses win.slots then s.recordSkip z .pool (siteDay w)
          else s.openNight { zone := z, desc := d } (Night.planned w win.slots e.runLength deadline)

/-- A zone takes the start of its ARMED survey in an advance to `t1` (R33, R77). -/
def State.surveyStart (s : State) (z t1 : Nat) : State :=
  let r : NightRef := { zone := z, desc := 2 }
  match s.night r with
  | none => s
  | some n =>
    if n.state ≠ .armed then s
    else if n.deadline ≤ t1 then (s.releaseNight r).recordSkip z .clockJump (siteDay n.start)
    else if s.freeSlots < n.slotCount then (s.releaseNight r).recordSkip z .pool (siteDay n.start)
    else s.openNight r n

/-! ### Window end, deadline, early completion (R28, R80) -/

/-- A zone takes the window end of an OPEN night (R28, R80). -/
def State.windowEnds (s : State) (r : NightRef) : State :=
  match s.night r with
  | none => s
  | some n =>
    if n.state ≠ .opened then s
    else if n.deadline = n.windowEnd s.slotSeconds ∨ n.complete s.slotSeconds then s.enterDraining r
    else s.setNight r (some { n with state := .closing })

/-- A zone takes the deadline of a CLOSING night (R28). -/
def State.deadlinePasses (s : State) (r : NightRef) : State :=
  match s.night r with
  | none => s
  | some n => if n.state = .closing then s.enterDraining r else s

/-- A CLOSING night found complete after an act of the Chain Unit drains at once (R80). -/
def State.earlyCompletion (s : State) (r : NightRef) : State :=
  match s.night r with
  | none => s
  | some n => if n.state = .closing && n.complete s.slotSeconds then s.enterDraining r else s

/-! ### Settle intervals (R10, R85, R124) -/

/-- The hull of an old settle interval, if any, and a new span (R10). -/
def Span.hull (old : Option Span) (p : Span) : Span :=
  match old with
  | none => p
  | some o => { start := min o.start p.start, stop := max o.stop p.stop }

/-- A tracked night of a descriptor marked DISTURBED when its window overlaps the interval (R85). -/
def Zone.disturbNight (L : Nat) (p : Span) (v : Zone) (d : Nat) : Zone :=
  match v.night d with
  | none => v
  | some n => if n.overlapsSpan L p then v.setNight d (some (n.receive .disturbed)) else v

/-- A zone's settle interval set or widened, and its tracked nights marked (R10, R85, R124). -/
def State.widenSettle (s : State) (z : Nat) (p : Span) : State :=
  match s.entry z with
  | none => s
  | some e =>
    let hull := Span.hull e.settle p
    let v := { s.zone z with entry := some { e with settle := some hull } }
    s.setZone z ([0, 1, 2].foldl (fun v d => v.disturbNight s.slotSeconds hull d) v)

/-! ### ZONE STOP (R88) -/

/-- The descriptors of a zone whose nights are not frozen (R88). -/
def Zone.unfrozen (v : Zone) : List Nat := [0, 1, 2].filter fun d => (v.night d).any fun n => !n.frozen

/-- One unfrozen night released and skipped as STOPPED (R88). -/
def State.stopNight (s : State) (r : NightRef) : State :=
  match s.night r with
  | none => s
  | some n => (s.releaseNight r).recordSkip r.zone .stopped (siteDay n.start)

/-- The unfrozen nights of a zone stopped, in an order the world chooses (R88, log 1). -/
def stopNightsLoop : Nat → Nat → State → State
  | 0, _, s => s
  | fuel + 1, z, s =>
    match (s.zone z).unfrozen with
    | [] => s
    | d :: rest =>
      let (i, s1) := choose (rest.length + 1) s
      stopNightsLoop fuel z (s1.stopNight { zone := z, desc := (d :: rest).getD i d })

/-- Every night of a zone that is not frozen released and skipped (R88). -/
def State.stopNights (s : State) (z : Nat) : State := stopNightsLoop 3 z s

end Sys2Proof.Machine
end

