-- ==== Sys2Proof/Machine/Verdicts.lean ====
section
/-! DEFINITION. The Verdict Unit (R109 to R130): learning, the burst and creep tests, the alarm hold,
dispositions, REBASELINE and BASELINE PUT, survey results. -/

namespace Sys2Proof.Machine

/-- A value clamped to −2147483647 to 2147483647 (R97, R102, R111). -/
def clampRate (v : Int) : Int := max (-2147483647) (min v 2147483647)

/-- The excess of a result over a baseline (R102, R111). -/
def excessOver (nnf baseline : Int) : Int := clampRate (nnf - baseline)

/-- The CUSUM after a tested excess (R115). -/
def nextCusum (t : Tests) (cusum : Nat) (e : Int) : Nat :=
  (min (max ((cusum : Int) + e - t.slack) 0) 2147483647).toNat

/-- The persistence after a tested excess (R115). -/
def nextPersistence (t : Tests) (p : Nat) (e : Int) : Nat :=
  if (t.burst : Int) ≤ e then min (p + 1) t.persist else 0

/-- The verdict state, test outcome and alarm cause a tested result gives: the first row of R116 that holds. -/
def testRow (t : Tests) (cusum p : Nat) (e : Int) : VerdictState × TestOutcome × Option AlarmCause :=
  if p = t.persist then (.alarm, .burst, some .burst)
  else if t.limit ≤ cusum then (.alarm, .creep, some .creep)
  else if (t.burst : Int) ≤ e then (.suspect, .burst, none)
  else (.normal, .pass, none)

/-- The baseline after a learned night (R113). -/
def learnedBaseline (b : Int) (n : Nat) (nnf : Int) : Int := (b * (n : Int) + nnf).tdiv ((n : Int) + 1)

/-- The baseline after a CLEAN night that leaves the zone NORMAL (R117). -/
def followedBaseline (b : Int) (w : Nat) (nnf : Int) : Int := b + (nnf - b).tdiv ((2 ^ w : Nat) : Int)

/-- A result's test part rewritten by a handling that began with baseline `b` (R111). -/
def ResultRecord.rewrite (r : ResultRecord) (b : Int) (cusum p : Nat) (st : VerdictState) (o : TestOutcome) : ResultRecord :=
  { r with baseline := b, excess := excessOver r.nnf b, cusum := cusum, persistence := p, verdict := st, outcome := o }

/-- A regular result becomes the last result, its test part rewritten as the record now stands (R111). -/
def Verdict.record (v : Verdict) (b : Int) (o : TestOutcome) (r : ResultRecord) : Verdict :=
  { v with last := some (r.rewrite b v.cusum v.persistence v.state o) }

/-- A regular result handled in LEARNING (R113). -/
def Verdict.learn (t : Tests) (v : Verdict) (r : ResultRecord) : Verdict :=
  let v1 :=
    if r.quality = .clean then
      let b := learnedBaseline v.baseline v.count r.nnf
      if t.learn ≤ v.count + 1 then { v with baseline := b, count := t.learn, state := .normal }
      else { v with baseline := b, count := v.count + 1 }
    else v
  v1.record v.baseline .notTested r

/-- A regular result tested (R115 to R118). -/
def Verdict.test (t : Tests) (v : Verdict) (r : ResultRecord) : Verdict :=
  let e := excessOver r.nnf v.baseline
  let cusum := nextCusum t v.cusum e
  let p := nextPersistence t v.persistence e
  let row := testRow t cusum p e
  let alarm :=
    match row.2.2 with
    | none => v.alarm
    | some cause =>
      some { cause := cause, day := r.day, nnf := r.nnf, excess := e, baseline := v.baseline, cusum := cusum, persistence := p }
  let b := if r.quality = .clean ∧ row.1 = .normal then followedBaseline v.baseline t.weight r.nnf else v.baseline
  { v with cusum := cusum, persistence := p, state := row.1, alarm := alarm, baseline := b }.record v.baseline row.2.1 r

/-- A regular result handled in NORMAL or SUSPECT (R114). -/
def Verdict.judgeNight (t : Tests) (v : Verdict) (r : ResultRecord) : Verdict :=
  if r.quality = .disturbed then v.record v.baseline .notTested r else v.test t r

/-- A regular result handled by the verdict state it finds; in ALARM with a waiting result held it is
discarded, and nothing changes (R113, R114, R119, R120). -/
def Verdict.handle (t : Tests) (v : Verdict) (r : ResultRecord) : Verdict :=
  match v.state with
  | .learning => v.learn t r
  | .normal => v.judgeNight t r
  | .suspect => v.judgeNight t r
  | .alarm => if v.waiting.isNone then { v with waiting := some r } else v
  | .repair => v.record v.baseline .notTested r

/-- A survey result written with its report (R130). -/
def Verdict.handleSurvey (t : Tests) (v : Verdict) (r : ResultRecord) : Verdict :=
  let e := excessOver r.nnf v.baseline
  if v.state = .learning ∨ r.quality = .disturbed then
    { v with survey := some (r.rewrite v.baseline v.cusum v.persistence v.state .notTested) }
  else
    let cusum := nextCusum t v.cusum e
    let p := nextPersistence t v.persistence e
    { v with survey := some (r.rewrite v.baseline cusum p v.state (testRow t cusum p e).2.1) }

/-- An act leaves the verdict state changed or writes a new alarm record (R112): `old` before it, `new` after. -/
def verdictRaised (old new : Verdict) : Bool := (old.state != new.state) || (new.alarm.isSome && (old.alarm != new.alarm))

/-- A handling discards the result it meets: the alarm hold is full (R119). -/
def Verdict.discards (v : Verdict) : Bool := v.state = .alarm && v.waiting.isSome

/-- The zone's test parameters, as its entry holds them (R110). A result can meet no UNDEFINED zone: a zone
with a night is not undefined (R6); the fresh parameters stand in there (log 25). -/
def State.tests (s : State) (z : Nat) : Tests := ((s.entry z).getD ZoneEntry.fresh).tests

/-- A result handed to the Verdict Unit, handled at once, with the flags it raises (R111, R112, R119, R130). -/
def State.handleResult (s : State) (r : ResultRecord) : State :=
  let v := (s.zone r.zone).verdict
  let t := s.tests r.zone
  if r.survey then (s.setVerdict r.zone (v.handleSurvey t r)).raise r.zone .survey
  else if v.discards then s.recordSkip r.zone .held r.day
  else
    ((s.setVerdict r.zone (v.handle t r)).raise r.zone .result).raiseIf (verdictRaised v (v.handle t r)) r.zone .verdict

/-! ### Dispositions (R121 to R125) -/

/-- DISMISS on a verdict record in ALARM (R122): with ABSORB the baseline becomes the alarm's NNF. -/
def Verdict.dismiss (v : Verdict) (absorb : Bool) : Verdict :=
  { v with
    baseline := if absorb then (v.alarm.map (·.nnf)).getD v.baseline else v.baseline
    persistence := 0, cusum := 0, alarm := none, state := .normal }

/-- CONFIRM on a verdict record in ALARM (R123). -/
def Verdict.confirm (v : Verdict) : Verdict := { v with state := .repair }

/-- REPAIRED on a verdict record in REPAIR (R124). -/
def Verdict.repaired (v : Verdict) : Verdict :=
  { v with persistence := 0, cusum := 0, alarm := none, state := .normal }

/-- The waiting result taken out and handled in the state a disposition left (R125). -/
def Verdict.releaseWaiting (t : Tests) (v : Verdict) : Verdict :=
  match v.waiting with
  | none => v
  | some r => { v with waiting := none }.handle t r

/-- A DISMISS or CONFIRM carried out on the record, as one act with the handling of a waiting result, and the
flags it raises (R112, R121, R125): `after` is what the disposition itself makes of the record. VERDICT is
always raised, since the disposition leaves ALARM or a new alarm is written. -/
def State.dispose (s : State) (z : Nat) (after : Verdict) : State :=
  let v := (s.zone z).verdict
  let v1 := after.releaseWaiting (s.tests z)
  ((s.setVerdict z v1).raiseIf v.waiting.isSome z .result).raise z .verdict

/-- The settle interval a REPAIRED sets at this site time (R124). -/
def State.repairSpan (s : State) (settleLength : Nat) : Span :=
  { start := s.clock.time, stop := min (s.clock.time + 60 * settleLength) 4294967295 }

/-- REPAIRED carried out (R124). -/
def State.repairDone (s : State) (z : Nat) : State :=
  let s1 := (s.setVerdict z (s.zone z).verdict.repaired).raise z .verdict
  if 0 < (s.tests z).settleLength then s1.widenSettle z (s.repairSpan (s.tests z).settleLength) else s1

/-! ### REBASELINE and BASELINE PUT (R127, R128) -/

/-- REBASELINE on a verdict record (R127). -/
def Verdict.rebaseline (v : Verdict) : Verdict :=
  { v with baseline := 0, count := 0, cusum := 0, persistence := 0, waiting := none, alarm := none, state := .learning }

/-- BASELINE PUT on a verdict record, with the zone's L (R128). -/
def Verdict.put (v : Verdict) (learn : Nat) (b : Int) (n cusum : Nat) : Verdict :=
  { v with baseline := b, count := min n learn, cusum := cusum, persistence := 0,
           state := if min n learn = learn then .normal else .learning }

/-- A verdict record replaced, raising VERDICT when its state changes (R112). -/
def State.replaceVerdict (s : State) (z : Nat) (v : Verdict) : State :=
  (s.setVerdict z v).raiseIf (((s.zone z).verdict.state) != v.state) z .verdict

end Sys2Proof.Machine
end

