-- ==== Sys2Proof/Machine/Assess.lean ====
section
/-! DEFINITION. The Assessor (R92 to R106): taking the head of the assessment queue, runs and rates, the
allowance, and the completion of an assessment. -/

namespace Sys2Proof.Machine

/-! ### Runs and the minimum night flow (R95, R97, R98) -/

/-- The complete slots of a night (R95). -/
def Night.completeCount (L : Nat) (n : Night) : Nat := (n.slots.filter (Slot.complete L)).length

/-- The slots of the run that starts at a slot index. -/
def Night.runSlots (n : Night) (i : Nat) : List Slot := (n.slots.drop i).take n.runLength

/-- K consecutive complete slots start at a slot index (R95). -/
def Night.isRun (L : Nat) (n : Night) (i : Nat) : Bool :=
  (n.runSlots i).length = n.runLength && (n.runSlots i).all (Slot.complete L)

/-- The start indices of a night's runs, in rising order (R95). -/
def Night.runs (L : Nat) (n : Night) : List Nat := (List.range n.slots.length).filter (n.isRun L)

/-- The net inflow of a list of slots. -/
def netVolume (xs : List Slot) : Int := (xs.map (·.inflow)).sum - (xs.map (·.outflow)).sum

/-- The rate of the run that starts at a slot index, in dL/h (R97). -/
def Night.rate (L : Nat) (n : Night) (i : Nat) : Int :=
  clampRate ((netVolume (n.runSlots i) * 3600).tdiv ((n.runLength * L : Nat) : Int))

/-- The earliest of the least rates, with its start index (R98). -/
def leastRate : List (Nat × Int) → Option (Nat × Int)
  | [] => none
  | x :: rest =>
    match leastRate rest with
    | none => some x
    | some y => if x.2 ≤ y.2 then some x else some y

/-- A night's MNF with its run start slot, none when it has no run (R95, R98). -/
def Night.minimum (L : Nat) (n : Night) : Option (Nat × Int) := leastRate ((n.runs L).map fun i => (i, n.rate L i))

/-! ### The allowance (R99 to R101) -/

/-- A user entry applies to a night of this day and weekday (R100). -/
def userApplies (u : User) (day weekday : Nat) : Bool :=
  u.weekdays.all (fun w => w.testBit weekday) && u.validUntil.all (fun v => day ≤ v)

/-- The LNU of a night day under a zone entry (R101). -/
def ZoneEntry.lnu (e : ZoneEntry) (day weekday : Nat) : Nat :=
  e.properties * e.perProperty + ((e.users.filter fun u => userApplies u day weekday).map (·.allowance)).sum

/-- The allowance of a night, read at the take (R99). A night's zone is never UNDEFINED (R6); the fresh entry
stands in there (log 25). -/
def State.lnuOf (s : State) (r : NightRef) (n : Night) : Nat :=
  ((s.entry r.zone).getD ZoneEntry.fresh).lnu (siteDay n.start) (s.weekday (siteDay n.start))

/-! ### The take (R93, R95, R96) -/

/-- The quality code after the take (R96). -/
def Night.assessedQuality (L : Nat) (n : Night) : Quality :=
  if n.quality = .clean ∧ !n.complete L then .incomplete else n.quality

/-- The Assessor begins the assessment of a night (R93, R95 to R101). -/
def State.beginAssessment (s : State) (r : NightRef) (n : Night) : State :=
  let L := s.slotSeconds
  match n.minimum L with
  | none => ((s.recordSkip r.zone .noData (siteDay n.start)).releaseNight r).quiesce
  | some (i, mnf) =>
    { s.setNight r (some { n with state := .assessing, quality := n.assessedQuality L }) with
      assess :=
        { s.assess with
          flight := some { night := r, completeCount := n.completeCount L, mnf := mnf, runStart := i, lnu := s.lnuOf r n } } }

/-- The idle Assessor takes the head of the assessment queue (R93). An entry whose descriptor is free, which
no run reaches, is dropped (log 25). -/
def State.assessorTake (s : State) : State :=
  match s.assess.flight, s.assess.queue with
  | none, r :: rest =>
    let s1 := { s with assess := { s.assess with queue := rest } }
    match s1.night r with
    | none => s1
    | some n => s1.beginAssessment r n
  | _, _ => s

/-! ### The completion (R102 to R105) -/

/-- The result record of the night in flight (R102 to R104). -/
def State.resultOf (s : State) (f : Flight) (n : Night) : ResultRecord :=
  let v := (s.zone f.night.zone).verdict
  let nnf := clampRate (f.mnf - f.lnu)
  { zone := f.night.zone, survey := f.night.desc = 2, day := siteDay n.start, slotCount := n.slotCount,
    completeCount := f.completeCount, quality := n.quality, mnf := f.mnf, runStart := f.runStart, lnu := f.lnu, nnf := nnf,
    baseline := v.baseline, excess := excessOver nnf v.baseline, cusum := v.cusum, persistence := v.persistence,
    outcome := .notTested, verdict := v.state, lateCount := n.lateCount }

/-- The completion of the assessment in flight, as one act (R105): the result handed to the Verdict Unit, the
night released, the Assessor idle. -/
def State.completeAssessment (s : State) : State :=
  match s.assess.flight with
  | none => s
  | some f =>
    let s1 := { s with assess := { s.assess with flight := none } }
    match s1.night f.night with
    | none => s1
    | some n => ((s1.handleResult (s1.resultOf f n)).releaseNight f.night).quiesce

end Sys2Proof.Machine
end

