-- ==== Sys2Proof/Machine/Chain.lean ====
section
/-! DEFINITION. The Chain Unit (R40, R50 to R66, R69, R70): taking a reading in hand, the chain decision, and
reaching one night of an application. -/

namespace Sys2Proof.Machine

/-! ### Taking a reading (R40) -/

/-- The request in the head place waits to be taken by the Chain Unit: its execution has not ended (R51, R152;
a waiting CHANNEL SET is taken as a cut is, R47, log 31). -/
def Link.waits (l : Link) : Bool := l.head.any fun h => h.reply.isNone

/-- The head of the Intake Queue taken in hand (R40): when the Chain Unit applies and holds no reading, and
nothing waits to be taken. -/
def State.takeReading (s : State) : State :=
  match s.chain, s.intake.queue with
  | .idle, w :: rest =>
    if s.link.waits then s else { s with chain := .inHand w, intake := { s.intake with queue := rest } }
  | _, _ => s

/-! ### The chain decision (R52 to R57) -/

/-- What a chain decision does: the chain it leaves, what its application carries to the nights (none when it
ends at once), and the exceptions it records, in order. -/
structure Decision where
  chain : List Reading
  change : Option ChainChange
  codes : List ExceptionCode
deriving DecidableEq, Repr

/-- Two readings of one timestamp show the same registers (R53). -/
def Meter.sameRegisters (m : Meter) (a b : Reading) : Bool :=
  a.forward = b.forward && (m.kind != .bidir || a.reverse = b.reverse)

/-- A chain of nine readings loses its oldest (R57). -/
def trim (chain : List Reading) : List Reading := if 8 < chain.length then chain.drop 1 else chain

/-- The exceptions of a reading that enters the chain: NOISY for its own mark, then SPIKE for a segment it
forms (R66). -/
def enteringCodes (r : Reading) (new : List Segment) : List ExceptionCode :=
  (if r.noisy = some true then [.noisy] else []) ++ if new.any (fun g => g.bad = some .spike) then [.spike] else []

/-- A decision that takes the reading into the chain between the earlier and the later readings. -/
def enter (before after : List Reading) (r : Reading) (old : Option Segment) (new : List Segment) : Decision :=
  { chain := trim (before ++ r :: after), change := some (.segments old new), codes := enteringCodes r new }

/-- A decision that leaves the chain as it was. -/
def Meter.drop (m : Meter) (change : Option ChainChange) (codes : List ExceptionCode) : Decision :=
  { chain := m.chain, change := change, codes := codes }

/-- A reading of a timestamp the chain does not hold, against the readings before and after it (R54 to R56). -/
def Meter.insert (m : Meter) (r : Reading) (before after : List Reading) : Decision :=
  match before.getLast?, after.head? with
  | none, none => enter before after r none []
  | some a, none => enter before after r none [m.segment a r]
  | none, some b => if m.chain.length < 8 then enter before after r none [m.segment r b] else m.drop none [.stale]
  | some a, some b => enter before after r (some (m.segment a b)) [m.segment a r, m.segment r b]

/-- The chain decision for a reading: the first case of R52 to R57 that applies. -/
def Meter.decide (m : Meter) (r : Reading) : Decision :=
  if m.cut.any (fun c => r.time < c) then m.drop none [.stale]
  else
    match m.chain.find? (fun x => x.time = r.time) with
    | some x => if m.sameRegisters x r then m.drop none [] else m.drop (some .conflict) [.conflict]
    | none => m.insert r (m.chain.filter fun x => x.time < r.time) (m.chain.filter fun x => r.time < x.time)

/-- Exceptions recorded against a meter in order (R66). -/
def State.recordExceptions (s : State) (i : Nat) (codes : List ExceptionCode) (time : Nat) : State :=
  codes.foldl (fun s c => s.recordException i c time) s

/-- An application begun with its chain decision (R51). -/
def State.chainDecision (s : State) : State :=
  match s.chain with
  | .idle => s
  | .applying _ => s
  | .inHand w =>
    match s.meter w.meter with
    | none => { s with chain := .idle }.quiesce
    | some m =>
      let d := m.decide w.reading
      let s1 := (s.putMeter w.meter { m with chain := d.chain }).recordExceptions w.meter d.codes w.reading.time
      match d.change with
      | none => { s1 with chain := .idle }.quiesce
      | some c => { s1 with chain := .applying { waiting := w, change := c, reached := [], late := false } }.quiesce

/-! ### Reaching a night (R53, R61 to R65) -/

/-- The application would change this night, were it not frozen (R64): a good segment that concerns it is
placed or withdrawn, or a bad one hands it a defect. -/
def ChainChange.wouldChange (L meter : Nat) (n : Night) : ChainChange → Bool
  | .conflict => false
  | .segments old new =>
    old.any (fun g => g.bad.isNone && n.concernedBy L meter g) ||
      new.any (fun g => (g.bad.isNone || g.defect.isSome) && n.concernedBy L meter g)

/-- The defects an application hands a night: those of its bad segments that concern it (R65). -/
def handedDefects (L meter : Nat) (n : Night) (new : List Segment) : List Quality :=
  new.filterMap fun g => if n.concernedBy L meter g then g.defect else none

/-- The defects in the order the night receives them: for two that differ, either may come first (log 20). -/
def orderDefects (ds : List Quality) (s : State) : List Quality × State :=
  match ds with
  | [d, e] => if d = e then (ds, s) else let (i, s1) := choose 2 s; (if i = 0 then [d, e] else [e, d], s1)
  | _ => (ds, s)

/-- A conflict's timestamp lies in the window of a night that requires the meter (R53). -/
def Night.holdsTime (L meter time : Nat) (n : Night) : Bool :=
  n.requires meter && n.start ≤ time && time < n.windowEnd L

/-- The old segment withdrawn and the new ones placed, as one act (R62, R63). -/
def Night.change (L meter : Nat) (old : Option Segment) (new : List Segment) (n : Night) : Night :=
  match old with
  | none => n.placeAll L meter new
  | some g => (n.withdraw L meter g).placeAll L meter new

/-- A tracked night reached (R53, R62, R63, R65), and completed early if it then is (R80). -/
def State.reachTracked (s : State) (a : Application) (r : NightRef) (n : Night) : State :=
  let L := s.slotSeconds
  match a.change with
  | .conflict =>
    if n.holdsTime L a.waiting.meter a.waiting.reading.time then
      (s.setNight r (some (n.receive .conflict))).earlyCompletion r
    else s.earlyCompletion r
  | .segments old new =>
    let (ds, s1) := orderDefects (handedDefects L a.waiting.meter n new) s
    (s1.setNight r (some ((n.change L a.waiting.meter old new).receiveAll ds))).earlyCompletion r

/-- A frozen night reached: a change it would have had is withheld (R64): its late count rises, and the
application's first one records LATE (R66). -/
def State.reachFrozen (s : State) (a : Application) (r : NightRef) (n : Night) : State :=
  if a.change.wouldChange s.slotSeconds a.waiting.meter n then
    (s.setNight r (some { n with lateCount := min (n.lateCount + 1) 65535 })).recordExceptionIf (!a.late) a.waiting.meter .late
      a.waiting.reading.time
  else s

/-- The application after a night was reached: an `s` in which the Chain Unit notes it. -/
def State.noteReached (s : State) (r : NightRef) (late : Bool) : State :=
  match s.chain with
  | .applying a => { s with chain := .applying { a with reached := r :: a.reached, late := a.late || late } }
  | _ => s

/-- One night that the application had not reached is reached (R51, R62); a night that is none of these is
not reached, and nothing happens. -/
def State.placement (s : State) (r : NightRef) : State :=
  match s.chain, s.night r with
  | .applying a, some n =>
    if (s.unreached a).contains r then
      if n.tracked then ((s.reachTracked a r n).noteReached r false).quiesce
      else if n.frozen then
        ((s.reachFrozen a r n).noteReached r (a.change.wouldChange s.slotSeconds a.waiting.meter n)).quiesce
      else (s.noteReached r false).quiesce
    else s
  | _, _ => s

/-! ### Cuts and retirements (R69, R70, R42) -/

/-- No application is in flight: idle, or a reading in hand whose application has not begun (R51). -/
def ChainUnit.betweenApplications : ChainUnit → Bool
  | .idle => true
  | .inHand _ => true
  | .applying _ => false

/-- A meter cut carried out (R69): the cut time set, the chain emptied. -/
def State.cutMeter (s : State) (i time : Nat) : State :=
  match s.meter i with
  | none => s
  | some m => s.putMeter i { m with cut := some time, chain := [] }

/-- A meter's reading in hand, its application not begun, discarded (R70). -/
def ChainUnit.discardOf (meter : Nat) : ChainUnit → ChainUnit
  | .inHand w => if w.meter = meter then .idle else .inHand w
  | c => c

/-- A meter removed with its waiting readings, its chain and its exception record (R15, R42, R70). -/
def State.removeMeter (s : State) (i : Nat) : State :=
  let s1 := (s.dequeueWhere fun w => w.meter = i).delMeter i
  { s1 with chain := s1.chain.discardOf i }.quiesce

end Sys2Proof.Machine
end

