-- ==== Sys2Proof/Machine/Operands.lean ====
section
/-! DEFINITION. The operands of requests: the code tables of R161, and step 1 of R2 for every request: each
field against its own range, without reference to any table of the part. -/

namespace Sys2Proof.Machine

/-! ### Codes (R161) -/

/-- The statuses of a reply (R161). -/
inductive Status where
  | ok | badLength | badValue | unknownKind | notReady | busy | wrongState | noSuch | full | duplicate | late | idle
deriving DecidableEq, Repr

/-- A status's code (R161). -/
def Status.code : Status → Nat
  | .ok => 0 | .badLength => 1 | .badValue => 2 | .unknownKind => 3 | .notReady => 4 | .busy => 5
  | .wrongState => 6 | .noSuch => 7 | .full => 8 | .duplicate => 9 | .late => 10 | .idle => 11

/-- The outcomes of a reading record (R38). -/
inductive ReadingOutcome where
  | accepted | queueFull | noSuchMeter | wrongKind | badValue | future | notReady
deriving DecidableEq, Repr

/-- A reading outcome's code (R161). -/
def ReadingOutcome.code : ReadingOutcome → Nat
  | .accepted => 0 | .queueFull => 1 | .noSuchMeter => 2 | .wrongKind => 3 | .badValue => 4 | .future => 5 | .notReady => 6

/-- The meter kind a code names (R161). -/
def MeterKind.ofCode : Nat → Option MeterKind
  | 0 => some .bulk | 1 => some .bidir | 2 => some .pulse | _ => none

/-- A meter kind's code (R161). -/
def MeterKind.code : MeterKind → Nat
  | .bulk => 0 | .bidir => 1 | .pulse => 2

/-- The register modulus a code names (R161). -/
def modulusOfCode : Nat → Option Nat
  | 0 => some 10000 | 1 => some 100000 | 2 => some 1000000 | 3 => some 10000000 | 4 => some 100000000
  | 5 => some 1000000000 | 6 => some 65536 | 7 => some 4294967296 | _ => none

/-- A modulus's code (R161). -/
def modulusCode (m : Nat) : Nat :=
  if m = 10000 then 0 else if m = 100000 then 1 else if m = 1000000 then 2 else if m = 10000000 then 3
  else if m = 100000000 then 4 else if m = 1000000000 then 5 else if m = 65536 then 6 else 7

/-- The scale a code names (R161). -/
def scaleOfCode : Nat → Option Nat
  | 0 => some 1 | 1 => some 10 | 2 => some 100 | 3 => some 1000 | 4 => some 10000 | _ => none

/-- A scale's code (R161). -/
def scaleCode (m : Nat) : Nat :=
  if m = 1 then 0 else if m = 10 then 1 else if m = 100 then 2 else if m = 1000 then 3 else 4

/-- The notice mode a code names (R161). -/
def NoticeMode.ofCode : Nat → Option NoticeMode
  | 0 => some .grouped | 1 => some .single | _ => none

/-- A notice mode's code (R161). -/
def NoticeMode.code : NoticeMode → Nat
  | .grouped => 0 | .single => 1

/-- A quality's code (R161). -/
def Quality.code : Quality → Nat
  | .clean => 0 | .spike => 1 | .noisy => 2 | .conflict => 3 | .disturbed => 4 | .incomplete => 5

/-- A test outcome's code (R161). -/
def TestOutcome.code : TestOutcome → Nat
  | .notTested => 0 | .pass => 1 | .burst => 2 | .creep => 3

/-- An alarm cause's code, that of the test outcome of the same name (R161, log 12). -/
def AlarmCause.code : AlarmCause → Nat
  | .burst => 2 | .creep => 3

/-- A verdict state's code (R161). -/
def VerdictState.code : VerdictState → Nat
  | .learning => 0 | .normal => 1 | .suspect => 2 | .alarm => 3 | .repair => 4

/-- A run state's code: UNDEFINED 0, IDLE 1, ACTIVE 2 (R161). -/
def runStateCode : Option ZoneEntry → Nat
  | none => 0
  | some e => if e.active then 2 else 1

/-- A night state's code as a descriptor (R161); 0 is a free descriptor. -/
def NightState.code : NightState → Nat
  | .armed => 1 | .opened => 2 | .closing => 3 | .draining => 4 | .queued => 5 | .assessing => 6

/-- A descriptor's code (R161). -/
def descriptorCode : Option Night → Nat
  | none => 0
  | some n => n.state.code

/-- A skip cause's code (R161). -/
def SkipCause.code : SkipCause → Nat
  | .pool => 1 | .backlog => 2 | .clockJump => 3 | .stopped => 4 | .noData => 5 | .held => 6

/-- An exception's code (R161). -/
def ExceptionCode.code : ExceptionCode → Nat
  | .stale => 1 | .conflict => 2 | .spike => 3 | .late => 4 | .noisy => 5

/-- A stream kind's code: ROLLCALL 0, PROFILE 1 (R161). -/
def StreamBody.code : StreamBody → Nat
  | .once _ _ => 0
  | .step _ _ => 0
  | .profile _ _ _ => 1

/-- An end cause's code (R161). -/
def EndCause.code : EndCause → Nat
  | .done => 0 | .stopped => 1 | .gone => 2 | .flushed => 3

/-- A reject cause's code (R161). -/
def RejectCause.code : RejectCause → Nat
  | .charError => 1 | .check => 2 | .timeout => 3 | .tooLong => 4 | .overrun => 5

/-- A role's code (R161). -/
def Role.code : Role → Nat
  | .inflow => 0 | .outflow => 1

/-- A link rate's code (R161). -/
def Rate.code : Rate → Nat
  | .b9600 => 0 | .b38400 => 1 | .b115200 => 2 | .b460800 => 3

/-- A link parity's code (R161). -/
def Parity.code : Parity → Nat
  | .none => 0 | .even => 1 | .odd => 2

/-! ### Straps and characters (R145, R146) -/

/-- The rate the straps select (R145). -/
def Straps.rate (p : Straps) : Rate :=
  match p.rate1, p.rate0 with
  | false, false => .b9600
  | false, true => .b38400
  | true, false => .b115200
  | true, true => .b460800

/-- The parity the straps select (R145). -/
def Straps.parity (p : Straps) : Parity :=
  match p.par1, p.par0 with
  | false, false => .none
  | false, true => .even
  | true, false => .odd
  | true, true => .none

/-- The bits in one second at a link rate (R145). -/
def Rate.baud : Rate → Nat
  | .b9600 => 9600
  | .b38400 => 38400
  | .b115200 => 115200
  | .b460800 => 460800

/-- Bit times of a character: 10 without parity, 11 with it (R145). -/
def Parity.charBits : Parity → Nat
  | .none => 10
  | .even => 11
  | .odd => 11

/-- The number of ones among the data bits is odd. -/
def oddOnes (b : Byte) : Bool := [0, 1, 2, 3, 4, 5, 6, 7].foldl (fun acc i => acc ^^ b.getLsbD i) false

/-- A character is correctly received: its stop bit is high and its parity is that of the link (R146). -/
def Parity.accepts (p : Parity) (c : Character) : Bool :=
  c.stopBit &&
    match p with
    | .none => true
    | .even => !(oddOnes c.data ^^ c.parityBit)
    | .odd => oddOnes c.data ^^ c.parityBit

/-- The levels of RXD that carry a character, bit time by bit time: the start bit, 8 data bits from the least
significant, the parity bit where selected, the stop bit (R146). -/
def Parity.levels (p : Parity) (c : Character) : List Bool :=
  false :: ([0, 1, 2, 3, 4, 5, 6, 7].map fun i => c.data.getLsbD i) ++
    (match p with
      | .none => []
      | .even => [c.parityBit]
      | .odd => [c.parityBit]) ++ [c.stopBit]

/-- The number that bits spell, the least significant first. -/
def ofBits : List Bool → Nat
  | [] => 0
  | b :: rest => b.toNat + 2 * ofBits rest

/-- The character that the levels after a start bit spell (R146). -/
def Parity.character (p : Parity) (bits : List Bool) : Character :=
  { data := byte (ofBits (bits.take 8)), parityBit := p != .none && bits.getD 8 false, stopBit := bits.getLastD false }

/-- One bit time of RXD taken by the character receiver, with the character it completes, if it does (R146): a low
level on an idle line begins a character; after a low stop bit the receiver waits for the line to return high. -/
def LineReceiver.take (p : Parity) (level : Bool) : LineReceiver → LineReceiver × Option Character
  | .idle => (if level then .idle else .inCharacter [], none)
  | .inCharacter bits =>
    if bits.length + 2 = p.charBits then (if level then .idle else .awaitHigh, some (p.character (bits ++ [level])))
    else (.inCharacter (bits ++ [level]), none)
  | .awaitHigh => (if level then .idle else .awaitHigh, none)

/-- The bits of one character on TXD, in time order: start bit, 8 data bits from the least significant,
the parity bit where selected, one stop bit (R147). -/
def Parity.charLine (p : Parity) (b : Byte) : List Bool :=
  false :: ([0, 1, 2, 3, 4, 5, 6, 7].map fun i => b.getLsbD i) ++
    (match p with
      | .none => []
      | .even => [oddOnes b]
      | .odd => [!oddOnes b]) ++ [true]

/-! ### Step 1 of R2: each field in its own range -/

/-- `lo ≤ n ≤ hi`. -/
def between (lo hi n : Nat) : Bool := lo ≤ n && n ≤ hi

/-- An optional field, when present, in its range. -/
def optBetween (lo hi : Nat) (n : Option Nat) : Bool := n.all (between lo hi)

/-- A zone to act on (R2: 1 to 256). -/
def zoneOk (z : Nat) : Bool := between 1 256 z

/-- SYSTEM SET's ranges (R30). -/
def systemInRange (f : SystemSpec) : Bool :=
  f.slotLength.all (fun n => n = 5 || n = 10 || n = 15 || n = 30) && optBetween 0 2048 f.reserve &&
    optBetween 0 1 f.noticeMode && optBetween 0 255 f.interval

/-- SURVEY ARM's ranges (R31). -/
def surveyInRange (f : SurveySpec) : Bool :=
  between 0 4294967295 f.start && between 2 48 f.slots && between 1 8 f.runLength

/-- ZONE SET WINDOW's ranges (R7). -/
def windowInRange (f : WindowSpec) : Bool :=
  between 0 1439 f.start && between 2 48 f.slots && optBetween 1 8 f.runLength && optBetween 0 2160 f.delay

/-- A user entry's ranges (R8): a present weekday set names at least one of the seven days. -/
def userInRange (u : User) : Bool :=
  between 0 4294967295 u.tag && between 1 65535 u.allowance && optBetween 1 127 u.weekdays && optBetween 0 49710 u.validUntil

/-- ZONE SET TESTS' ranges (R1, R9). -/
def testsInRange (t : Tests) : Bool :=
  between 3 30 t.learn && between 1 6 t.weight && between 1 2147483647 t.burst && between 1 7 t.persist &&
    between 0 2147483647 t.slack && between 1 2147483647 t.limit && between 0 10080 t.settleLength

/-- METER DEFINE's step 1 (R14). -/
def meterInRange (f : MeterSpec) : Bool :=
  between 0 4294967295 f.tag && between 0 2 f.kind && between 0 256 f.upstream && between 0 256 f.downstream &&
    between 0 7 f.modulus && between 0 4 f.scale && between 1 2147483647 f.maxRate && optBetween 60 86400 f.maxGap &&
    optBetween 0 7 f.channel &&
    (if f.kind = 2 then f.channel.isSome && f.modulus = 7 else f.channel.isNone) && (f.upstream != f.downstream)

/-- CHANNEL SET's ranges; all three settings or none (R47). -/
def channelInRange (f : ChannelSpec) : Bool :=
  optBetween 0 1 f.enable && optBetween 1 255 f.width && optBetween 0 255 f.noise &&
    (f.enable.isSome == f.width.isSome) && (f.width.isSome == f.noise.isSome)

/-- ACK's ranges: an entry up to 256, and only flags of that entry (R135, R161). -/
def ackInRange (entry flags : Nat) : Bool :=
  entry ≤ 256 && (if entry = 0 then flags % 16 = 0 && flags < 64 else flags < 16)

/-- BASELINE PUT's ranges (R128). -/
def baselineInRange (b : Int) (n c : Nat) : Bool :=
  -2147483647 ≤ b && b ≤ 2147483647 && n ≤ 30 && c ≤ 2147483647

/-- Step 1 of R2 for every request: the first check of each, whose failure gives BAD_VALUE. That CLOCK SET's epoch weekday
is checked here, before R21 and R22, is the model's choice: log 35. -/
def requestInRange : Request → Bool
  | .identify => true
  | .systemSet f => systemInRange f
  | .poolStatus => true
  | .flush => true
  | .ack entry flags => ackInRange entry flags
  | .clockSet time weekday => optBetween 0 4294967295 time && optBetween 0 6 weekday
  | .surveyArm zone f _ => zoneOk zone && surveyInRange f
  | .surveyCancel zone => zoneOk zone
  | .zoneDefine zone => zoneOk zone
  | .zoneStart zone => zoneOk zone
  | .zoneStop zone => zoneOk zone
  | .zoneUndefine zone => zoneOk zone
  | .zoneSetWindow zone f => zoneOk zone && windowInRange f
  | .zoneSetAllowance zone properties perProperty users =>
    zoneOk zone && between 0 65535 properties && between 0 255 perProperty && between 0 8 users.length && users.all userInRange
  | .zoneSetTests zone f => zoneOk zone && testsInRange f
  | .disturb zone start stop => zoneOk zone && between 0 4294967295 start && between 0 4294967295 stop
  | .meterDefine f => meterInRange f
  | .meterRetire _ => true
  | .meterCut _ time => between 0 4294967295 time
  | .meterStatus _ => true
  | .exceptionsTag _ => true
  | .exceptionsSweep index => between 0 1023 index
  | .readings _ records => between 1 16 records.length
  | .channelSet channel f => between 0 7 channel && channelInRange f
  | .dispose zone disposition _ => zoneOk zone && between 0 2 disposition
  | .rebaseline zone => zoneOk zone
  | .baselineGet zone => zoneOk zone
  | .baselinePut zone baseline count cusum => zoneOk zone && baselineInRange baseline count cusum
  | .resultGet zone selector => zoneOk zone && between 0 2 selector
  | .zoneStatus zone => zoneOk zone
  | .rollcall first last mode => zoneOk first && zoneOk last && between 0 1 mode
  | .rollcallNext => true
  | .rollcallStop => true
  | .profile zone descriptor => zoneOk zone && between 0 2 descriptor
  | .unknown => true
  | .badLength => true
  | .badValue => false

end Sys2Proof.Machine
end

