-- ==== Sys2Proof/Machine/Layout.lean ====
section
/-! DEFINITION. What the part sends: the fields of every reply, the records of R164 to R168, the part's own
frames (R165, R169), the envelope (R160) and the bits of a frame on TXD (R147). Where R159 leaves the grouping
of presence bytes or a width open: log 12. -/

namespace Sys2Proof.Machine

/-- A group of `k` bytes that may be absent: a presence byte, then the bytes, zeros when absent (R159). -/
def leGroup (k : Nat) : Option (List Byte) → List Byte
  | none => 0 :: List.replicate k 0
  | some b => 1 :: b

/-! ### Records -/

/-- A result record's 38 bytes (R164). -/
def ResultRecord.bytes (r : ResultRecord) : List Byte :=
  le 2 r.zone ++ leBool r.survey ++ le 2 r.day ++ le 1 r.slotCount ++ le 1 r.completeCount ++ le 1 r.quality.code ++
    leSigned r.mnf ++ le 1 r.runStart ++ le 4 r.lnu ++ leSigned r.nnf ++ leSigned r.baseline ++ leSigned r.excess ++
    le 4 r.cusum ++ le 1 r.persistence ++ le 1 r.outcome.code ++ le 1 r.verdict.code ++ le 2 r.lateCount

/-- A zone summary's 19 bytes (R138, R166). -/
def Zone.summary (z : Nat) (v : Zone) : List Byte :=
  le 2 z ++ le 1 (runStateCode v.entry) ++ le 1 v.verdict.state.code ++
    le 1 (v.flags.code + if v.verdict.last.isSome then 128 else 0) ++ leSigned v.verdict.baseline ++ le 1 v.verdict.count ++
    leSigned ((v.verdict.last.map (·.nnf)).getD 0) ++ le 2 ((v.verdict.last.map (·.day)).getD 0) ++
    le 1 (descriptorCode v.night0) ++ le 1 (descriptorCode v.night1) ++ le 1 (descriptorCode v.night2)

/-- A volume as a slot record carries it, clamped to four bytes (R168). -/
def clampVolume (v : Int) : Int := max (-2147483648) (min v 2147483647)

/-- A slot record's 10 + 2m bytes (R167, R168). -/
def Slot.bytes (L index : Nat) (x : Slot) : List Byte :=
  le 1 index ++ leSigned (clampVolume x.inflow) ++ leSigned (clampVolume x.outflow) ++ leBool (x.complete L) ++
    x.covered.flatMap fun c => le 2 (min c 65535)

/-- The slot records a profile frame carries at most, for `m` positions (R142, R167). -/
def slotsPerFrame (m : Nat) : Nat := min 12 (246 / (10 + 2 * m))

/-- An exception record's code, timestamp and count; zeros for an empty one (R66, R161). -/
def exceptionBytes : Option ExceptionRecord → List Byte
  | none => le 1 0 ++ le 4 0 ++ le 1 0
  | some r => le 1 r.code.code ++ le 4 r.time ++ le 1 r.count

/-- A skip record's cause, night day and count; zeros for an empty one (R87, R161). -/
def skipBytes : Option SkipRecord → List Byte
  | none => le 1 0 ++ le 2 0 ++ le 1 0
  | some r => le 1 r.cause.code ++ le 2 r.day ++ le 1 r.count

/-- A settle interval, or its absence (R10, R121, R144). -/
def settleBytes (p : Option Span) : List Byte := leGroup 8 (p.map fun p => le 4 p.start ++ le 4 p.stop)

/-- An alarm record, or its absence (R109, R144). -/
def alarmBytes (a : Option AlarmRecord) : List Byte :=
  leGroup 20 (a.map fun a =>
    le 1 a.cause.code ++ le 2 a.day ++ leSigned a.nnf ++ leSigned a.excess ++ leSigned a.baseline ++ le 4 a.cusum ++
      le 1 a.persistence)

/-- A night's drain mark as an intake number, or its absence (R36, R73). -/
def Night.markBytes (n : Night) : List Byte := leOpt 4 (n.mark.map intakeNumber)

/-- A descriptor as ZONE STATUS reports it (R144). -/
def nightBytes (desc : Nat) (n : Option Night) : List Byte :=
  leGroup 21 (n.map fun n =>
    leBool (desc = 2) ++ le 1 n.state.code ++ le 2 (siteDay n.start) ++ le 4 n.start ++ le 1 n.slotCount ++ le 4 n.deadline ++
      n.markBytes ++ le 1 n.quality.code ++ le 2 n.lateCount)

/-! ### The fields of replies -/

/-- IDENTIFY's figures (R156). -/
def State.identifyFields (s : State) : List Byte :=
  le 1 7 ++ le 2 256 ++ le 1 1 ++ leBool s.clock.running ++ le 1 s.link.rate.code ++ le 1 s.link.parity.code ++ le 2 Config.zones ++
    le 2 Config.meters ++ le 1 Config.boundary ++ le 1 Config.channels ++ le 1 Config.chainLength ++ le 1 Config.hostPlaces ++
    le 1 Config.readingsPerRequest ++ le 2 Config.pool ++ le 1 3 ++ le 2 768 ++ le 1 Config.maxBody

/-- SYSTEM SET's four values (R30). -/
def Settings.fields (t : Settings) : List Byte := le 1 t.slotLength ++ le 2 t.reserve ++ le 1 t.noticeMode.code ++ le 1 t.interval

/-- POOL STATUS's five figures (R91). -/
def State.poolFields (s : State) : List Byte :=
  le 2 s.freeSlots ++ le 2 s.regularHeld ++ le 2 s.surveyHeld ++ le 2 s.settings.reserve ++ le 2 (Config.pool - s.settings.reserve)

/-- CLOCK SET's reply: condition, site time, site day, weekday (R21, R22). -/
def State.clockFields (s : State) : List Byte :=
  leBool s.clock.running ++ le 4 s.clock.time ++ le 2 (siteDay s.clock.time) ++ le 1 (s.weekday (siteDay s.clock.time))

/-- ACK's reply: the entry, the flags still set, queued, blocked (R135). -/
def State.entryFields (s : State) (entry : Nat) : List Byte :=
  le 2 entry ++ le 1 (s.flagByte entry) ++ leBool (s.queued entry) ++ leBool (s.blocked entry)

/-- METER STATUS's reply for a meter at its index (R67). Each value that may be absent has a presence byte of its own,
the four an empty chain leaves absent included: the model's choice, log 12. -/
def State.meterFields (s : State) (i : Nat) (m : Meter) : List Byte :=
  le 4 m.tag ++ le 2 i ++ le 1 m.kind.code ++ le 2 m.upstream ++ le 2 m.downstream ++ le 1 (modulusCode m.modulus) ++
    le 1 (scaleCode m.scale) ++ le 4 m.maxRate ++ le 4 m.maxGap ++ leOpt 1 m.channel ++ leOpt 4 m.cut ++ le 1 m.chain.length ++
    leOpt 4 (m.chain.head?.map (·.time)) ++ leOpt 4 (m.chain.getLast?.map (·.time)) ++ leOpt 4 (m.chain.getLast?.map (·.forward)) ++
    leOpt 4 (m.chain.getLast?.bind (·.reverse)) ++ leBool (s.inHand.any fun w => w.meter = i) ++ exceptionBytes m.exceptions

/-- A meter's exception record with its tag and index (R68, R13). -/
def exceptionEntry (i : Nat) (m : Meter) : List Byte := le 4 m.tag ++ le 2 i ++ exceptionBytes m.exceptions

/-- CHANNEL SET's reply: the channel's record (R47, R48). -/
def State.channelFields (s : State) (c : Nat) : List Byte :=
  let v := s.channel c
  leBool v.enable ++ leGroup 6 ((s.boundMeter c).map fun p => le 4 p.2.tag ++ le 2 p.1) ++ le 1 v.width ++ le 1 v.noiseLimit ++
    le 4 v.count ++ le 2 v.rejected ++ leBool (s.reserved c).isSome

/-- BASELINE GET's reply: B, n, S, p and the verdict state (R128, R129). -/
def Verdict.fields (v : Verdict) : List Byte :=
  leSigned v.baseline ++ le 1 v.count ++ le 4 v.cusum ++ le 1 v.persistence ++ le 1 v.state.code

/-- RESULT GET's reply: the selector, a presence byte and the record or 38 zeros (R164). -/
def resultFields (selector : Nat) (r : Option ResultRecord) : List Byte := le 1 selector ++ leGroup 38 (r.map ResultRecord.bytes)

/-- ZONE STATUS's reply for a zone with its entry (R144). -/
def State.zoneFields (s : State) (z : Nat) (e : ZoneEntry) : List Byte :=
  let v := s.zone z
  let d := v.verdict
  le 1 (runStateCode (some e)) ++ leGroup 3 (e.window.map fun w => le 2 w.start ++ le 1 w.slots) ++ le 1 e.runLength ++ le 2 e.delay ++
    settleBytes e.settle ++ le 1 d.state.code ++ leSigned d.baseline ++ le 1 d.count ++ le 4 d.cusum ++ le 1 d.persistence ++
    alarmBytes d.alarm ++ leBool d.last.isSome ++ leBool d.waiting.isSome ++ leBool d.survey.isSome ++ skipBytes v.skip ++
    le 1 v.flags.code ++ leBool (s.queued z) ++ leBool v.blocked ++ nightBytes 0 v.night0 ++ nightBytes 1 v.night1 ++
    nightBytes 2 v.night2

/-- SURVEY ARM's reply (R31). -/
def surveyFields (z : Nat) (n : Night) : List Byte :=
  le 2 z ++ le 4 n.start ++ le 1 n.slotCount ++ le 1 n.runLength ++ le 4 n.deadline

/-- One pair of a required set as PROFILE reports it (R141). A required meter is defined (R15); tag 0 stands in
where it is not (log 25). -/
def State.requiredFields (s : State) (q : Required) : List Byte :=
  le 2 q.meter ++ le 4 (((s.meter q.meter).map (·.tag)).getD 0) ++ le 1 q.role.code

/-- PROFILE's reply: the night's header (R141). -/
def State.headerFields (s : State) (r : NightRef) (n : Night) : List Byte :=
  le 2 r.zone ++ le 1 r.desc ++ leBool (r.desc = 2) ++ le 2 (siteDay n.start) ++ le 4 n.start ++ le 1 n.slotCount ++ le 1 n.runLength ++
    le 4 n.deadline ++ le 1 n.state.code ++ n.markBytes ++ le 1 n.quality.code ++ le 2 n.lateCount ++ le 1 n.required.length ++
    n.required.flatMap s.requiredFields

/-- READINGS' reply after the status: count, outcomes, first intake number, free host places (R162). -/
def readingsFields (outcomes : List ReadingOutcome) (first : Option Nat) (free : Nat) : List Byte :=
  le 1 outcomes.length ++ outcomes.map (fun o => byte o.code) ++ leOpt 4 (first.map intakeNumber) ++ le 1 free

/-! ### Frames -/

/-- A reply's frame (R152, R160): for the request it answers, under the reply's own KIND. -/
def Reply.frame (r : Reply) (tag : Byte) : Frame := { kind := r.kind, tag := tag, body := r.body }

/-- The KIND of a reply: the request's plus 0x80, or 0x80 with status UNKNOWN_KIND (R152, R160). -/
def replyKind (kind : Byte) (status : Status) : Byte := if status = .unknownKind then 0x80 else kind + 0x80

/-- A reply's body: the status, and the fields where it is OK (R160). -/
def replyBody (status : Status) (fields : List Byte) : List Byte := le 1 status.code ++ if status = .ok then fields else []

/-- A REJECT's frame (R169). -/
def Reject.frame (r : Reject) : Frame := { kind := 0xC0, tag := r.tag, body := le 1 r.cause.code }

/-- A notice's frame (R169). -/
def noticeFrame (entry flags : Nat) : Frame := { kind := 0xC1, tag := 0, body := le 2 entry ++ le 1 flags }

/-- A stream frame (R165). -/
def streamFrame (body : StreamBody) (seq count : Nat) (items : List Byte) : Frame :=
  { kind := 0xC2, tag := 0, body := le 1 body.code ++ le 2 seq ++ le 1 count ++ items }

/-- An end frame (R165); `tail` is the night state and late count of a PROFILE ended DONE. -/
def endFrame (body : StreamBody) (seq : Nat) (cause : EndCause) (sent : Nat) (tail : List Byte) : Frame :=
  { kind := 0xC3, tag := 0, body := le 1 body.code ++ le 2 seq ++ le 1 cause.code ++ le 2 sent ++ tail }

/-- The CRC of a frame: over LEN, KIND, TAG and BODY (R149). -/
def frameCrc (kind tag : Byte) (body : List Byte) : BitVec 16 := crc16 (le 1 body.length ++ kind :: tag :: body)

/-- The characters of a frame on the line (R148, R160). -/
def Frame.bytes (f : Frame) : List Byte :=
  Config.syncByte :: (le 1 f.body.length ++ f.kind :: f.tag :: f.body) ++ crcBytes (frameCrc f.kind f.tag f.body)

/-- The levels of TXD, bit time by bit time, while a frame is transmitted: its characters without gaps (R147). -/
def Frame.line (p : Parity) (f : Frame) : List Bool := f.bytes.flatMap p.charLine

/-- The levels of TXD in the bit times of the transmission under way: the frame being sent, with the parity the link
holds (R145, R147); none where no frame is in transmission. -/
def State.txdBits (s : State) : List Bool :=
  match s.link.sending with
  | none => []
  | some x => x.frame.line s.link.parity

/-- The level of TXD in a bit time, counted from the start bit of the transmission under way: high after its last stop
bit and where no frame is in transmission (R147). Which bit time it is, is no state of the model (log 27). -/
def State.txd (s : State) (bit : Nat) : Bool := s.txdBits.getD bit true

/-- The level of TXD a time in microseconds after the start of the transmission under way, at the rate the link holds
(R145, R147). -/
def State.txdAfter (s : State) (micros : Nat) : Bool := s.txd (micros * s.link.rate.baud / 1000000)

/-! ### What executing a request gives (R2, R152) -/

/-- The end of a request's execution: its status, the fields of an OK reply, the state it leaves and whether
the reply's end starts a stream; or `wait`, for a request the Chain Unit has still to take (R152). -/
inductive Ran where
  | done (status : Status) (fields : List Byte) (s : State) (starts : Bool)
  | wait
deriving DecidableEq, Repr

/-- A refused request: it changes no state, and its reply carries the status alone (R2). -/
def Ran.refuse (status : Status) (s : State) : Ran := .done status [] s false

/-- A request carried out. -/
def Ran.ok (fields : List Byte) (s : State) : Ran := .done .ok fields s false

/-- A request on a defined zone: NO_SUCH where it is UNDEFINED (R2 step 3). -/
def onZone (s : State) (z : Nat) (f : ZoneEntry → Ran) : Ran :=
  match s.entry z with
  | none => .refuse .noSuch s
  | some e => f e

/-- A request on a meter by its tag: NO_SUCH where the tag map does not hold it (R2 step 3, R13). -/
def onMeter (s : State) (tag : Nat) (f : Nat → Meter → Ran) : Ran :=
  match s.meterByTag tag with
  | none => .refuse .noSuch s
  | some i =>
    match s.meter i with
    | none => .refuse .noSuch s
    | some m => f i m

end Sys2Proof.Machine
end

