-- ==== Sys2Proof/Machine/Meters.lean ====
section
/-! DEFINITION. The meter requests past step 1 of R2 (R14 to R16, R67, R68), and the cut and the retire as the
Chain Unit takes them (R15, R69, R70). -/

namespace Sys2Proof.Machine

/-! ### METER DEFINE (R14) -/

/-- A zone a meter names is OUTSIDE or defined (R14, step 3). -/
def State.namedDefined (s : State) (z : Nat) : Bool := z = 0 || (s.entry z).isSome

/-- A zone's boundary has no room for one more meter (R11, R14). -/
def State.boundaryFull (s : State) (z : Nat) : Bool := z ≠ 0 && Config.boundary ≤ (s.boundary z).length

/-- The meter METER DEFINE creates (R12, R14). -/
def Meter.defined (f : MeterSpec) : Meter :=
  { tag := f.tag, kind := (MeterKind.ofCode f.kind).getD .bulk, upstream := f.upstream, downstream := f.downstream,
    modulus := (modulusOfCode f.modulus).getD 4294967296, scale := (scaleOfCode f.scale).getD 1, maxRate := f.maxRate,
    maxGap := f.maxGap.getD 3600, channel := f.channel, cut := none, chain := [], exceptions := none }

/-- METER DEFINE: NO_SUCH, then DUPLICATE, FULL, FULL, BUSY in that order (R14). -/
def State.runMeterDefine (s : State) (f : MeterSpec) : Ran :=
  let i := lowestFree 0 s.meters
  if !s.namedDefined f.upstream || !s.namedDefined f.downstream then .refuse .noSuch s
  else if (s.meterByTag f.tag).isSome then .refuse .duplicate s
  else if Config.meters ≤ s.meters.length then .refuse .full s
  else if s.boundaryFull f.upstream || s.boundaryFull f.downstream then .refuse .full s
  else if f.channel.any (fun c => (s.boundMeter c).isSome) then .refuse .busy s
  else .ok (le 4 f.tag ++ le 2 i) (s.putMeter i (Meter.defined f))

/-! ### METER RETIRE and METER CUT (R15, R16) -/

/-- METER RETIRE as a request: it waits for the Chain Unit (R15, R70). A tag the tag map does not hold is answered
at once, without a wait: the model's choice, log 33. -/
def State.runMeterRetire (s : State) (tag : Nat) : Ran := onMeter s tag fun _ _ => .wait

/-- METER CUT as a request: it waits for the Chain Unit (R16, R69). A tag the tag map does not hold is answered at
once, without a wait: the model's choice, log 33. -/
def State.runMeterCut (s : State) (tag : Nat) : Ran := onMeter s tag fun _ _ => .wait

/-- A night that is not ARMED requires the meter (R15). -/
def State.meterRequired (s : State) (i : Nat) : Bool := s.nights.any fun p => (p.2.state != .armed) && p.2.requires i

/-- The meter is the only IN meter of an ACTIVE zone (R15). -/
def State.onlyInflow (s : State) (i : Nat) (m : Meter) : Bool :=
  (s.entry m.downstream).any (·.active) && !(s.meters.any fun p => p.1 ≠ i && p.2.downstream = m.downstream)

/-- METER RETIRE taken by the Chain Unit (R15, R70). -/
def State.takeRetire (s : State) (tag : Nat) : Ran :=
  onMeter s tag fun i m =>
    if s.meterRequired i || s.onlyInflow i m then .refuse .busy s else .ok [] (s.removeMeter i)

/-- METER CUT taken by the Chain Unit (R16, R69). -/
def State.takeCut (s : State) (tag time : Nat) : Ran := onMeter s tag fun i _ => .ok [] (s.cutMeter i time)

/-! ### METER STATUS and METER EXCEPTIONS (R67, R68) -/

/-- METER STATUS: the exception record is emptied after it is reported (R66, R67). -/
def State.runMeterStatus (s : State) (tag : Nat) : Ran :=
  onMeter s tag fun i m => .ok (s.meterFields i m) (s.emptyExceptions i)

/-- METER EXCEPTIONS with a tag (R68). -/
def State.runExceptionsTag (s : State) (tag : Nat) : Ran := onMeter s tag fun i m => .ok (exceptionEntry i m) (s.emptyExceptions i)

/-- The meters from an index up whose exception records are set, in rising order of index (R68). -/
def State.exceptional (s : State) (index : Nat) : List (Nat × Meter) :=
  s.meters.filter fun p => index ≤ p.1 && p.2.exceptions.isSome

/-- The index after the last meter a sweep reports (R68). -/
def sweepNext (reported : List (Nat × Meter)) : Nat := (reported.getLast?.map fun p => p.1 + 1).getD 0

/-- METER EXCEPTIONS, the sweep form: up to 16 set records from an index up, each emptied (R68). -/
def State.runExceptionsSweep (s : State) (index : Nat) : Ran :=
  let found := s.exceptional index
  let reported := found.take 16
  let finished : Bool := found.length ≤ 16
  .ok
    (le 1 reported.length ++ reported.flatMap (fun p => exceptionEntry p.1 p.2) ++
      leOpt 2 (if finished then none else some (sweepNext reported)) ++ leBool finished)
    (reported.foldl (fun s p => s.emptyExceptions p.1) s)

end Sys2Proof.Machine
end

