-- ==== Sys2Proof/Machine/Readings.lean ====
section
/-! DEFINITION. READINGS (R37 to R39, R162, R163), the pulse inputs (R44) and CHANNEL SET (R47, R48). -/

namespace Sys2Proof.Machine

/-! ### READINGS (R37 to R39) -/

/-- The BAD_VALUE row of R38 for a host meter, with the sum test of R163. -/
def Meter.refuses (m : Meter) (base : Nat) (r : ReadingSpec) : Bool :=
  m.modulus ≤ r.forward ||
    (m.kind = .bidir && r.reverse.all (fun v => m.modulus ≤ v)) ||
    (m.kind = .bulk && r.reverse.isSome) || 4294967295 < base + r.offset

/-- The outcome of a reading record, and the meter index it is for: the first row of R38 that holds. -/
def State.judge (s : State) (base : Nat) (r : ReadingSpec) : ReadingOutcome × Nat :=
  if !s.clock.running then (.notReady, 0)
  else
    match s.meterByTag r.tag with
    | none => (.noSuchMeter, 0)
    | some i =>
      match s.meter i with
      | none => (.noSuchMeter, 0)
      | some m =>
        if m.kind = .pulse then (.wrongKind, i)
        else if m.refuses base r then (.badValue, i)
        else if s.clock.time + 300 < base + r.offset then (.future, i)
        else if s.hostFree = 0 then (.queueFull, i)
        else (.accepted, i)

/-- The waiting reading a record becomes (R39). -/
def ReadingSpec.reading (base : Nat) (r : ReadingSpec) : Reading :=
  { time := base + r.offset, forward := r.forward, reverse := r.reverse, noisy := none }

/-- The records of a request taken one after another (R37): each outcome, and the state they leave. -/
def State.takeRecords (base : Nat) : List ReadingSpec → State → List ReadingOutcome × State
  | [], s => ([], s)
  | r :: rest, s =>
    let (o, i) := s.judge base r
    let s1 := if o = .accepted then s.enqueue i (ReadingSpec.reading base r) .host else s
    let (os, s2) := State.takeRecords base rest s1
    (o :: os, s2)

/-- READINGS (R37). -/
def State.runReadings (s : State) (base : Nat) (records : List ReadingSpec) : Ran :=
  let (os, s1) := State.takeRecords base records s
  .ok (readingsFields os (if os.contains .accepted then some s.intake.next else none) s1.hostFree) s1

/-! ### The pulse inputs (R44) -/

/-- A falling edge on a channel's input: a low period begins, measured if the channel is on (R44). -/
def Channel.fall (c : Channel) : Channel := if c.lineLow then c else { c with lineLow := true, measuring := c.enable }

/-- A measured low period judged: a pulse, or rejected (R44); `micros` is its length in microseconds (log 6). -/
def Channel.judge (micros : Nat) (c : Channel) : Channel :=
  if c.width ≤ micros / 1000 then { c with count := (c.count + 1) % 4294967296 }
  else { c with rejected := min (c.rejected + 1) 65535 }

/-- A rising edge on a channel's input ends the low period (R44). -/
def Channel.rise (micros : Nat) (c : Channel) : Channel :=
  if !c.lineLow then c
  else
    let c1 := { c with lineLow := false, measuring := false }
    if c.enable && c.measuring then c1.judge micros else c1

/-! ### CHANNEL SET (R47, R48) -/

/-- A channel record under new settings: the counts at 0, a low period under way not measured (R47). -/
def Channel.configured (c : Channel) (enable width noise : Nat) : Channel :=
  { c with enable := enable = 1, width := width, noiseLimit := noise, count := 0, rejected := 0, measuring := false }

/-- The bound meter of a channel, if any, cut at the site time of this moment (R47, R69). -/
def State.cutBound (s : State) (c : Nat) : State :=
  match s.boundMeter c with
  | none => s
  | some (i, _) => s.cutMeter i s.clock.time

/-- CHANNEL SET's settings carried out as one act (R47). -/
def State.setChannelSettings (s : State) (c enable width noise : Nat) : State :=
  (((s.setChannel c ((s.channel c).configured enable width noise)).dequeueWhere fun w => w.origin = .channel c).cutBound c).quiesce

/-- The bound meter's reading is in hand (R47). -/
def State.boundInHand (s : State) (c : Nat) : Bool :=
  match s.boundMeter c with
  | none => false
  | some (i, _) => s.inHand.any fun w => w.meter = i

/-- CHANNEL SET carrying the settings, at the moment it is carried out (R47). -/
def State.takeChannelSet (s : State) (c enable width noise : Nat) : Ran :=
  if s.boundInHand c then .refuse .busy s
  else .ok ((s.setChannelSettings c enable width noise).channelFields c) (s.setChannelSettings c enable width noise)

/-- CHANNEL SET carrying a channel number alone (R48). -/
def State.readChannel (s : State) (c : Nat) : Ran := .ok (s.channelFields c) s

/-- CHANNEL SET as a request: with settings for a bound channel it waits for the Chain Unit (R47). -/
def State.runChannelSet (s : State) (c : Nat) (f : ChannelSpec) : Ran :=
  match f.enable, f.width, f.noise with
  | some enable, some width, some noise => if (s.boundMeter c).isSome then .wait else s.takeChannelSet c enable width noise
  | _, _, _ => s.readChannel c

end Sys2Proof.Machine
end

