-- ==== Sys2Proof/Machine/Streams.lean ====
section
/-! DEFINITION. The Stream Unit (R137 to R142): walking a roll call, the requests that start, pull and stop a
stream, and building a stream's next frame. -/

namespace Sys2Proof.Machine

/-! ### Walking a range of zones (R138, R139) -/

/-- The zone number after one: 256 is followed by 1 (R138). -/
def zoneAfter (z : Nat) : Nat := if z = 256 then 1 else z + 1

/-- How many zone numbers a range holds (R138). -/
def rangeLength (first last : Nat) : Nat := if first ≤ last then last - first + 1 else 257 - first + last

/-- The defined zones met on a walk of `left` zone numbers from `next`, at most `want` of them, and where the
walk stopped: the next zone number and how many are left (R138, R139). -/
def State.walk (s : State) : Nat → Nat → Nat → List Nat × Nat × Nat
  | 0, next, _ => ([], next, 0)
  | left + 1, next, want =>
    if want = 0 then ([], next, left + 1)
    else if (s.entry next).isSome then
      let (zs, n, l) := s.walk left (zoneAfter next) (want - 1)
      (next :: zs, n, l)
    else s.walk left (zoneAfter next) want

/-- The summaries of a list of zones (R138). -/
def State.summaries (s : State) (zs : List Nat) : List Byte := zs.flatMap fun z => (s.zone z).summary z

/-! ### Requests (R138 to R141) -/

/-- A stream as its request starts it (R137). -/
def Stream.start (body : StreamBody) : Stream := { body := body, phase := .awaitReply, seq := 1, sent := 0 }

/-- ROLLCALL (R138): in ONCE mode its reply's end starts the frames. -/
def State.runRollcall (s : State) (first last mode : Nat) : Ran :=
  if s.stream.isSome then .refuse .busy s
  else
    let n := rangeLength first last
    let body : StreamBody := if mode = 0 then .once first n else .step first n
    .done .ok (le 2 first ++ le 2 last ++ le 1 mode) { s with stream := some (Stream.start body) } (mode = 0)

/-- ROLLCALL NEXT (R139, R166). -/
def State.runRollcallNext (s : State) : Ran :=
  match s.stream with
  | none => .refuse .idle s
  | some st =>
    match st.body with
    | .once _ _ => .refuse .wrongState s
    | .profile _ _ _ => .refuse .wrongState s
    | .step next left =>
      match s.walk left next 1 with
      | ([], _, _) => .ok (le 1 1 ++ List.replicate 19 0) { s with stream := none }
      | (z :: _, n, l) =>
        .ok (le 1 0 ++ (s.zone z).summary z) { s with stream := some { st with body := .step n l, sent := st.sent + 1 } }

/-- ROLLCALL STOP (R140, log 16). -/
def State.runRollcallStop (s : State) : Ran :=
  match s.stream with
  | none => .refuse .idle s
  | some st =>
    match st.body with
    | .step _ _ => .ok (le 1 st.body.code) { s with stream := none }
    | .once _ _ => .ok (le 1 st.body.code) { s with stream := some { st with phase := .ending .stopped } }
    | .profile _ _ _ => .ok (le 1 st.body.code) { s with stream := some { st with phase := .ending .stopped } }

/-- PROFILE (R141); the order of its checks: log 14. -/
def State.runProfile (s : State) (z desc : Nat) : Ran :=
  onZone s z fun _ =>
    let r : NightRef := { zone := z, desc := desc }
    match s.night r with
    | none => .refuse .noSuch s
    | some n =>
      if s.stream.isSome then .refuse .busy s
      else if n.state = .armed then .refuse .wrongState s
      else .done .ok (s.headerFields r n) { s with stream := some (Stream.start (.profile r n.slotCount true)) } true

/-! ### Building frames (R137, R138, R142, R165) -/

/-- The slot records of a profile frame: `count` slots downward from slot `left − 1` (R142). -/
def Night.slotItems (L : Nat) (n : Night) (left count : Nat) : List Byte :=
  (List.range count).flatMap fun k =>
    match n.slots[left - 1 - k]? with
    | none => []
    | some x => x.bytes L (left - 1 - k)

/-- A stream frame built: the stream goes on in transmission (R137). -/
def State.sendItems (s : State) (st : Stream) (body : StreamBody) (count : Nat) (items : List Byte) : Frame × Source × State :=
  (streamFrame st.body st.seq count items, .streamFrame,
    { s with stream := some { st with body := body, phase := .sending, seq := st.seq + 1, sent := st.sent + count } })

/-- An end frame built: the stream is over (R137). -/
def State.sendEnd (s : State) (st : Stream) (cause : EndCause) (tail : List Byte) : Frame × Source × State :=
  (endFrame st.body st.seq cause st.sent tail, .endFrame, { s with stream := none })

/-- The next frame of a profile (R142): GONE, DONE with the night's state and late count, or slot records. -/
def State.buildProfile (s : State) (st : Stream) (r : NightRef) (left : Nat) (held : Bool) : Frame × Source × State :=
  match held, s.night r with
  | true, some n =>
    if left = 0 then s.sendEnd st .done (le 1 n.state.code ++ le 2 n.lateCount)
    else
      let count := min left (slotsPerFrame n.required.length)
      s.sendItems st (.profile r (left - count) true) count (n.slotItems s.slotSeconds left count)
  | _, _ => s.sendEnd st .gone []

/-- The next frame of a walk (R138): up to 8 summaries, or DONE. -/
def State.buildWalk (s : State) (st : Stream) (next left : Nat) : Frame × Source × State :=
  match s.walk left next 8 with
  | ([], _, _) => s.sendEnd st .done []
  | (zs, n, l) => s.sendItems st (.once n l) zs.length (s.summaries zs)

/-- The frame the arbiter starts for the stream, as the part stands (R137, R154). A STEP stream offers none; it
is walked like the others where a phase no run gives it would have it offer one (log 25). -/
def State.buildStream (s : State) (st : Stream) : Frame × Source × State :=
  match st.phase with
  | .ending cause => s.sendEnd st cause []
  | _ =>
    match st.body with
    | .once next left => s.buildWalk st next left
    | .step next left => s.buildWalk st next left
    | .profile r left held => s.buildProfile st r left held

/-- A stream offers a frame (R137). -/
def Stream.offers (st : Stream) : Bool :=
  match st.phase with
  | .offered => true
  | .ending _ => true
  | _ => false

end Sys2Proof.Machine
end

