-- ==== Sys2Proof/Machine/Advance.lean ====
section
/-! DEFINITION. Clock advances (R20, R22 to R29, R33) and the boundary readings they bring (R25, R45, R46):
the acts of one advance, each zone's in order of site time, interleaved as the world chooses (log 1). -/

namespace Sys2Proof.Machine

/-! ### Boundary readings (R25, R45, R46) -/

/-- The last slot boundary at or before an instant, for slots of `L` seconds (R24, R25). -/
def lastBoundary (L t : Nat) : Nat := t / L * L

/-- The NOISY test of a boundary reading (R45). -/
def Channel.noisyTest (c : Channel) : Bool := c.noiseLimit ≠ 0 && c.noiseLimit < c.rejected

/-- An enabled channel's rejected count set to 0 at the announcement (R45). -/
def State.clearRejected (s : State) (c : Nat) : State := s.setChannel c { s.channel c with rejected := 0 }

/-- The boundary reading of a channel, carrying the NOISY mark of the reading it supersedes (R45, R46). -/
def State.boundaryReading (s : State) (c b : Nat) : Reading :=
  let carried := (s.reserved c).any fun w => w.reading.noisy = some true
  { time := b, forward := (s.channel c).count, reverse := none, noisy := some ((s.channel c).noisyTest || carried) }

/-- An enabled channel acts at the announced boundary `b`: with a bound meter it makes its reading, which
enters its reserved place, superseding one that waits there; its rejected count becomes 0 (R45, R46). -/
def State.channelActs (s : State) (c b : Nat) : State :=
  match s.boundMeter c with
  | none => s.clearRejected c
  | some (i, _) =>
    let r := s.boundaryReading c b
    (((s.dequeueWhere fun w => w.origin = .channel c).enqueue i r (.channel c)).clearRejected c).quiesce

/-- The enabled channels (R45). -/
def State.enabledChannels (s : State) : List Nat := [0, 1, 2, 3, 4, 5, 6, 7].filter fun c => (s.channel c).enable

/-! ### The acts of an advance (R23, R26 to R28, R33) -/

/-- One act of an advance. -/
inductive Act where
  | regularStart (zone w : Nat)
  | surveyStart (zone : Nat)
  | windowEnd (night : NightRef)
  | deadline (night : NightRef)
  | announce (channel : Nat)
deriving DecidableEq, Repr

/-- The first regular window start of a zone after an instant (R26). -/
def nextStart (startMinute after : Nat) : Nat :=
  let w := after - after % 86400 + 60 * startMinute
  if after < w then w else w + 86400

/-- An instant lies in the advance: after `t0`, up to and including `t1` (R23). -/
def inAdvance (t0 t1 x : Nat) : Bool := t0 < x && x ≤ t1

/-- The instant a night next takes in an advance, with its act: the start of an ARMED survey, which stands in
descriptor 2, the window end of an OPEN night, the deadline of a CLOSING one (R28, R33, R77). -/
def Night.instant (L : Nat) (r : NightRef) (n : Night) : Option (Nat × Act) :=
  match n.state with
  | .armed => if r.desc = 2 then some (n.start, .surveyStart r.zone) else none
  | .opened => some (n.windowEnd L, .windowEnd r)
  | .closing => some (n.deadline, .deadline r)
  | .draining => none
  | .queued => none
  | .assessing => none

/-- The instants of a zone that lie in the rest of an advance: `cursor` is the last regular window start
taken, or the advance's beginning (R23). -/
def State.instants (s : State) (t0 t1 z cursor : Nat) : List (Nat × Act) :=
  let starts :=
    match (s.entry z).bind (·.window) with
    | none => []
    | some win =>
      if nextStart win.start cursor ≤ t1 then [(nextStart win.start cursor, .regularStart z (nextStart win.start cursor))] else []
  starts ++ ((s.zone z).nights z).filterMap fun p =>
    (p.2.instant s.slotSeconds p.1).bind fun x => if inAdvance t0 t1 x.1 then some x else none

/-- The acts of a list of instants that come first in site time (R23). -/
def earliest (xs : List (Nat × Act)) : List Act :=
  match (xs.map (·.1)).min? with
  | none => []
  | some t => xs.filterMap fun x => if x.1 = t then some x.2 else none

/-- One act carried out. -/
def State.act (s : State) (t1 b : Nat) : Act → State
  | .regularStart z w => (s.regularStart z w t1).quiesce
  | .surveyStart z => (s.surveyStart z t1).quiesce
  | .windowEnd r => (s.windowEnds r).quiesce
  | .deadline r => (s.deadlinePasses r).quiesce
  | .announce c => s.channelActs c b

/-- The cursors of the zones after an act. -/
def advanceCursors (act : Act) (zones : List (Nat × Nat)) : List (Nat × Nat) :=
  match act with
  | .regularStart z w => zones.map fun p => if p.1 = z then (z, w) else p
  | _ => zones

/-- The channels that have still to act after an act. -/
def remainingChannels (act : Act) (channels : List Nat) : List Nat :=
  match act with
  | .announce c => channels.filter (· ≠ c)
  | _ => channels

/-- The acts that may come next in an advance: the announcement to a channel that has still to act, and each zone's
earliest instants (R23, R25). -/
def State.nextActs (s : State) (t0 t1 : Nat) (zones : List (Nat × Nat)) (channels : List Nat) : List Act :=
  channels.map Act.announce ++ zones.flatMap fun p => earliest (s.instants t0 t1 p.1 p.2)

/-- The acts of an advance, one at a time: of those that may come next the world chooses one (R23, log 1). -/
def advanceLoop (t0 t1 b : Nat) : Nat → List (Nat × Nat) → List Nat → State → State
  | 0, _, _, s => s
  | fuel + 1, zones, channels, s =>
    match s.nextActs t0 t1 zones channels with
    | [] => s
    | x :: rest =>
      let (i, s1) := choose (rest.length + 1) s
      let act := (x :: rest).getD i x
      advanceLoop t0 t1 b fuel (advanceCursors act zones) (remainingChannels act channels) (s1.act t1 b act)

/-- The ACTIVE zones (R23). -/
def State.activeZones (s : State) : List Nat :=
  s.zones.filterMap fun p => if p.2.entry.any (·.active) then some p.1 else none

/-- More acts than one advance can hold: for each zone its window starts, two further instants of every night
that opens, and those of the three nights it has. -/
def advanceFuel (zones t0 t1 : Nat) : Nat := 8 + zones * (3 * ((t1 - t0) / 86400 + 1) + 9)

/-- The channels an advance to `t1` announces a slot boundary to: the enabled ones, where it crosses one (R25, R45). -/
def State.announced (s : State) (t1 : Nat) : List Nat :=
  if s.clock.time < lastBoundary s.slotSeconds t1 then s.enabledChannels else []

/-- A clock advance from the current site time to `t1` (R20, R22): the time, then the acts of every ACTIVE
zone and of every announced channel with a bound meter; an announced channel without one only zeroes its rejected
count (R45). -/
def State.advance (s : State) (t1 : Nat) : State :=
  let t0 := s.clock.time
  let zones := s.activeZones
  let s1 := { s with clock := { s.clock with time := t1 } }
  advanceLoop t0 t1 (lastBoundary s.slotSeconds t1) (advanceFuel zones.length t0 t1) (zones.map fun z => (z, t0))
    ((s.announced t1).filter fun c => (s.boundMeter c).isSome)
    (((s.announced t1).filter fun c => (s.boundMeter c).isNone).foldl State.clearRejected s1)

/-- One second of the crystal (R20): in RUN, below the last site time, an advance of one second. -/
def State.tick (s : State) : State :=
  if s.clock.running && s.clock.time < 4294967295 then s.advance (s.clock.time + 1) else s

end Sys2Proof.Machine
end

