-- ==== Sys2Proof/Machine/System.lean ====
section
/-! DEFINITION. The requests on the part as a whole past step 1 of R2: IDENTIFY (R156), SYSTEM SET (R30),
POOL STATUS (R91), FLUSH (R158 and each block's rule for it), ACK (R135), CLOCK SET (R21, R22). -/

namespace Sys2Proof.Machine

/-- IDENTIFY (R156). -/
def State.runIdentify (s : State) : Ran := .ok s.identifyFields s

/-! ### SYSTEM SET (R30) -/

/-- A zone entry without its window: K and D stay (R7). -/
def ZoneEntry.dropWindow (e : ZoneEntry) : ZoneEntry := { e with window := none }

/-- A zone number's record without its window (R7). -/
def Zone.dropWindow (v : Zone) : Zone := { v with entry := v.entry.map ZoneEntry.dropWindow }

/-- The slot length set: a different one takes the window of every zone (R7, R30). -/
def State.setSlotLength (s : State) (n : Nat) : State :=
  if n = s.settings.slotLength then s
  else { s with settings := { s.settings with slotLength := n }, zones := s.zones.map fun p => (p.1, p.2.dropWindow) }

/-- The notice mode set: a change to SINGLE unblocks every entry (R133). -/
def State.setNoticeMode (s : State) (m : NoticeMode) : State :=
  let s1 := { s with settings := { s.settings with noticeMode := m } }
  if s.settings.noticeMode = .grouped ∧ m = .single then s1.unblockAll else s1

/-- Each present field of SYSTEM SET set (R30). -/
def State.applySystem (s : State) (f : SystemSpec) : State :=
  let s1 := match f.slotLength with | none => s | some n => s.setSlotLength n
  let s2 := match f.noticeMode.bind NoticeMode.ofCode with | none => s1 | some m => s1.setNoticeMode m
  { s2 with settings := { s2.settings with reserve := f.reserve.getD s2.settings.reserve,
                                           interval := f.interval.getD s2.settings.interval } }

/-- SYSTEM SET (R30): in RUN only the stream interval may be set. -/
def State.runSystemSet (s : State) (f : SystemSpec) : Ran :=
  if s.clock.running && (f.slotLength.isSome || f.reserve.isSome || f.noticeMode.isSome) then .refuse .wrongState s
  else .ok (s.applySystem f).settings.fields (s.applySystem f)

/-- POOL STATUS (R91). -/
def State.runPoolStatus (s : State) : Ran := .ok s.poolFields s

/-! ### FLUSH (R49, R71, R90, R107, R137, R158) -/

/-- A zone number's record with its nights released and nothing else changed (R90). -/
def Zone.withoutNights (v : Zone) : Zone := { v with night0 := none, night1 := none, night2 := none }

/-- A stream under FLUSH: STEP ends at once, the others offer the end frame FLUSHED (R137, log 16). -/
def Stream.flush (st : Stream) : Option Stream :=
  match st.body with
  | .step _ _ => none
  | .once next left => some { st with body := .once next left, phase := .ending .flushed }
  | .profile night left _ => some { st with body := .profile night left false, phase := .ending .flushed }

/-- FLUSH in every block, as one act (R158). -/
def State.flush (s : State) : State :=
  { s with
    zones := (s.zones.map fun p => (p.1, p.2.withoutNights)).filter fun p => p.2 ≠ Zone.initial
    meters := s.meters.map fun p => (p.1, { p.2 with chain := [] })
    intake := { s.intake with queue := [] }
    chain := .idle
    assess := { queue := [], flight := none }
    stream := s.stream.bind Stream.flush }

/-- FLUSH (R158). -/
def State.runFlush (s : State) : Ran := .ok [] s.flush

/-! ### ACK and CLOCK SET (R135, R21, R22) -/

/-- ACK (R135). -/
def State.runAck (s : State) (entry flags : Nat) : Ran := .ok ((s.acknowledge entry flags).entryFields entry) (s.acknowledge entry flags)

/-- The first setting of the clock: not an advance (R21). -/
def State.startClock (s : State) (time weekday : Nat) : State :=
  { s with clock := { time := time, running := true, epoch := weekday } }

/-- CLOCK SET in COLD (R21). -/
def State.runClockCold (s : State) (time weekday : Option Nat) : Ran :=
  match time, weekday with
  | none, _ => .ok s.clockFields s
  | some _, none => .refuse .badValue s
  | some t, some d => .ok (s.startClock t d).clockFields (s.startClock t d)

/-- CLOCK SET in RUN (R22). -/
def State.runClockRun (s : State) (time weekday : Option Nat) : Ran :=
  if weekday.any (fun d => d ≠ s.clock.epoch) then .refuse .badValue s
  else
    match time with
    | none => .ok s.clockFields s
    | some t =>
      if t < s.clock.time then .refuse .badValue s
      else if t = s.clock.time then .ok s.clockFields s
      else .ok (s.advance t).clockFields (s.advance t)

/-- CLOCK SET (R21, R22). -/
def State.runClockSet (s : State) (time weekday : Option Nat) : Ran :=
  if s.clock.running then s.runClockRun time weekday else s.runClockCold time weekday

end Sys2Proof.Machine
end

