-- ==== Sys2Proof/Machine/Zones.lean ====
section
/-! DEFINITION. The zone, survey and verdict requests past step 1 of R2: what each checks, in order, what it
does and what its reply carries (R3 to R10, R31 to R34, R121 to R129, R143, R144). -/

namespace Sys2Proof.Machine

/-! ### Zone requests (R3 to R10) -/

/-- ZONE DEFINE (R3). -/
def State.runZoneDefine (s : State) (z : Nat) : Ran :=
  if (s.entry z).isSome then .refuse .wrongState s else .ok (le 2 z) (s.setEntry z (some ZoneEntry.fresh))

/-- The zone's boundary has an IN meter (R4). -/
def State.hasInflow (s : State) (z : Nat) : Bool := (s.boundary z).any fun q => q.role = .inflow

/-- ZONE START (R4). -/
def State.runZoneStart (s : State) (z : Nat) : Ran :=
  if !s.clock.running then .refuse .notReady s
  else
    onZone s z fun e =>
      if e.active || e.window.isNone || !s.hasInflow z then .refuse .wrongState s
      else .ok [] (s.setEntry z (some { e with active := true }))

/-- ZONE STOP (R5, R88). -/
def State.runZoneStop (s : State) (z : Nat) : Ran :=
  onZone s z fun e =>
    if !e.active then .refuse .wrongState s
    else .ok [] ((s.setEntry z (some { e with active := false })).stopNights z).quiesce

/-- A meter of the Meter Table names the zone (R6). -/
def State.named (s : State) (z : Nat) : Bool := s.meters.any fun p => p.2.upstream = z || p.2.downstream = z

/-- ZONE UNDEFINE (R6): flags, queue entry and skip record stay. -/
def State.runZoneUndefine (s : State) (z : Nat) : Ran :=
  onZone s z fun e =>
    let v := s.zone z
    if e.active then .refuse .wrongState s
    else if v.verdict.state = .alarm ∨ v.verdict.state = .repair then .refuse .wrongState s
    else if s.named z then .refuse .busy s
    else if (v.nights z).length ≠ 0 then .refuse .busy s
    else .ok [] (s.setZone z { v with entry := none, verdict := Verdict.initial })

/-- A zone entry under ZONE SET WINDOW's fields (R7). -/
def ZoneEntry.withWindow (e : ZoneEntry) (f : WindowSpec) : ZoneEntry :=
  { e with window := some { start := f.start, slots := f.slots }, runLength := f.runLength.getD e.runLength,
           delay := f.delay.getD e.delay }

/-- ZONE SET WINDOW (R7). -/
def State.runZoneSetWindow (s : State) (z : Nat) (f : WindowSpec) : Ran :=
  onZone s z fun e =>
    let e1 := e.withWindow f
    if e.active then .refuse .busy s
    else if f.start % s.settings.slotLength ≠ 0 ∨ f.slots < e1.runLength then .refuse .badValue s
    else .ok (le 2 f.start ++ le 1 f.slots ++ le 1 e1.runLength ++ le 2 e1.delay) (s.setEntry z (some e1))

/-- Two entries of a user list share a tag (R8). -/
def duplicateTags : List User → Bool
  | [] => false
  | u :: rest => rest.any (fun v => v.tag = u.tag) || duplicateTags rest

/-- ZONE SET ALLOWANCE (R8). -/
def State.runZoneSetAllowance (s : State) (z properties perProperty : Nat) (users : List User) : Ran :=
  onZone s z fun e =>
    if duplicateTags users then .refuse .duplicate s
    else .ok [] (s.setEntry z (some { e with properties := properties, perProperty := perProperty, users := users }))

/-- ZONE SET TESTS (R9). -/
def State.runZoneSetTests (s : State) (z : Nat) (t : Tests) : Ran :=
  onZone s z fun e => .ok [] (s.setEntry z (some { e with tests := t }))

/-- DISTURB (R10, R85): the order of its relation check is that of R2 (log 15). -/
def State.runDisturb (s : State) (z start stop : Nat) : Ran :=
  onZone s z fun e =>
    if stop ≤ start then .refuse .badValue s
    else
      let hull := Span.hull e.settle { start := start, stop := stop }
      .ok (le 4 hull.start ++ le 4 hull.stop) (s.widenSettle z { start := start, stop := stop })

/-! ### Survey requests (R31, R32, R34) -/

/-- The survey descriptor of a zone. -/
def surveyRef (z : Nat) : NightRef := { zone := z, desc := 2 }

/-- A survey's relations hold (R31): on the grid, in the future, K within the slots, the deadline reachable. -/
def State.surveyRelations (s : State) (e : ZoneEntry) (f : SurveySpec) : Bool :=
  f.start % s.slotSeconds = 0 && s.clock.time < f.start && f.runLength ≤ f.slots &&
    s.deadlineOf f.start f.slots e.delay ≤ 4294967295

/-- A survey armed, in place of one that is released first (R31, R32, R89). -/
def State.armSurvey (s : State) (z : Nat) (n : Night) : State :=
  ((s.releaseNight (surveyRef z)).setNight (surveyRef z) (some n)).quiesce

/-- SURVEY ARM, with REPLACE or without it (R31, R32). -/
def State.runSurveyArm (s : State) (z : Nat) (f : SurveySpec) (replace : Bool) : Ran :=
  if !s.clock.running then .refuse .notReady s
  else
    onZone s z fun e =>
      let old := s.night (surveyRef z)
      let n := Night.planned f.start f.slots f.runLength (s.deadlineOf f.start f.slots e.delay)
      if !e.active then .refuse .wrongState s
      else if old.isSome && !replace then .refuse .busy s
      else if old.any Night.frozen then .refuse .late s
      else if !s.surveyRelations e f then .refuse .badValue s
      else .ok (surveyFields z n) (s.armSurvey z n)

/-- SURVEY CANCEL (R34). -/
def State.runSurveyCancel (s : State) (z : Nat) : Ran :=
  onZone s z fun _ =>
    match s.night (surveyRef z) with
    | none => .refuse .noSuch s
    | some n => if n.frozen then .refuse .late s else .ok [] (s.releaseNight (surveyRef z)).quiesce

/-! ### Verdict requests (R121 to R129) -/

/-- The reply of a DISMISS or CONFIRM: the verdict state the act left (R121, R125). -/
def State.verdictFields (s : State) (z : Nat) : List Byte := le 1 (s.zone z).verdict.state.code

/-- DISMISS (R121, R122, R125). -/
def State.runDismiss (s : State) (z : Nat) (absorb : Bool) : Ran :=
  onZone s z fun _ =>
    let v := (s.zone z).verdict
    if v.state ≠ .alarm then .refuse .wrongState s
    else .ok ((s.dispose z (v.dismiss absorb)).verdictFields z) (s.dispose z (v.dismiss absorb))

/-- CONFIRM (R121, R123, R125). -/
def State.runConfirm (s : State) (z : Nat) (absorb : Bool) : Ran :=
  onZone s z fun _ =>
    let v := (s.zone z).verdict
    if v.state ≠ .alarm then .refuse .wrongState s
    else if absorb then .refuse .badValue s
    else .ok ((s.dispose z v.confirm).verdictFields z) (s.dispose z v.confirm)

/-- REPAIRED (R121, R124): its reply carries the settle interval as well. -/
def State.runRepaired (s : State) (z : Nat) (absorb : Bool) : Ran :=
  onZone s z fun _ =>
    if (s.zone z).verdict.state ≠ .repair then .refuse .wrongState s
    else if absorb then .refuse .badValue s
    else
      .ok ((s.repairDone z).verdictFields z ++ settleBytes (((s.repairDone z).entry z).bind (·.settle))) (s.repairDone z)

/-- DISPOSE by its disposition (R121, R161). -/
def State.runDispose (s : State) (z disposition : Nat) (absorb : Bool) : Ran :=
  match disposition with
  | 0 => s.runDismiss z absorb
  | 1 => s.runConfirm z absorb
  | _ => s.runRepaired z absorb

/-- REBASELINE (R127). -/
def State.runRebaseline (s : State) (z : Nat) : Ran :=
  onZone s z fun _ => .ok [] (s.replaceVerdict z (s.zone z).verdict.rebaseline)

/-- BASELINE GET (R129). -/
def State.runBaselineGet (s : State) (z : Nat) : Ran := onZone s z fun _ => .ok (s.zone z).verdict.fields s

/-- BASELINE PUT (R128). -/
def State.runBaselinePut (s : State) (z : Nat) (baseline : Int) (count cusum : Nat) : Ran :=
  onZone s z fun e =>
    let v := (s.zone z).verdict
    let v1 := v.put e.tests.learn baseline count cusum
    if v.state = .alarm ∨ v.state = .repair then .refuse .wrongState s else .ok v1.fields (s.replaceVerdict z v1)

/-- The result a selector names: LAST, WAITING or SURVEY (R143, R164). -/
def Verdict.selected (v : Verdict) : Nat → Option ResultRecord
  | 0 => v.last
  | 1 => v.waiting
  | _ => v.survey

/-- RESULT GET (R143). -/
def State.runResultGet (s : State) (z selector : Nat) : Ran :=
  onZone s z fun _ => .ok (resultFields selector ((s.zone z).verdict.selected selector)) s

/-- ZONE STATUS (R144). -/
def State.runZoneStatus (s : State) (z : Nat) : Ran := onZone s z fun e => .ok (s.zoneFields z e) s

end Sys2Proof.Machine
end

