-- ==== Sys2Proof/Machine/Link.lean ====
section
/-! DEFINITION. The Link Controller (R145 to R157): executing the request in the head place, the receive buffer,
the reject queue, the frame receiver and the transmit arbiter. -/

namespace Sys2Proof.Machine

/-! ### Executing a request (R2, R152) -/

/-- A request past step 1 of R2, by its kind: the block that owns what it touches carries it out. -/
def State.runKind (s : State) : Request → Ran
  | .identify => s.runIdentify
  | .systemSet f => s.runSystemSet f
  | .poolStatus => s.runPoolStatus
  | .flush => s.runFlush
  | .ack entry flags => s.runAck entry flags
  | .clockSet time weekday => s.runClockSet time weekday
  | .surveyArm zone f replace => s.runSurveyArm zone f replace
  | .surveyCancel zone => s.runSurveyCancel zone
  | .zoneDefine zone => s.runZoneDefine zone
  | .zoneStart zone => s.runZoneStart zone
  | .zoneStop zone => s.runZoneStop zone
  | .zoneUndefine zone => s.runZoneUndefine zone
  | .zoneSetWindow zone f => s.runZoneSetWindow zone f
  | .zoneSetAllowance zone properties perProperty users => s.runZoneSetAllowance zone properties perProperty users
  | .zoneSetTests zone f => s.runZoneSetTests zone f
  | .disturb zone start stop => s.runDisturb zone start stop
  | .meterDefine f => s.runMeterDefine f
  | .meterRetire tag => s.runMeterRetire tag
  | .meterCut tag _ => s.runMeterCut tag
  | .meterStatus tag => s.runMeterStatus tag
  | .exceptionsTag tag => s.runExceptionsTag tag
  | .exceptionsSweep index => s.runExceptionsSweep index
  | .readings base records => s.runReadings base records
  | .channelSet channel f => s.runChannelSet channel f
  | .dispose zone disposition absorb => s.runDispose zone disposition absorb
  | .rebaseline zone => s.runRebaseline zone
  | .baselineGet zone => s.runBaselineGet zone
  | .baselinePut zone baseline count cusum => s.runBaselinePut zone baseline count cusum
  | .resultGet zone selector => s.runResultGet zone selector
  | .zoneStatus zone => s.runZoneStatus zone
  | .rollcall first last mode => s.runRollcall first last mode
  | .rollcallNext => s.runRollcallNext
  | .rollcallStop => s.runRollcallStop
  | .profile zone descriptor => s.runProfile zone descriptor
  | .unknown => .refuse .unknownKind s
  | .badLength => .refuse .badLength s
  | .badValue => .refuse .badValue s

/-- A request executed: step 1 of R2, then its own rule (R152). -/
def State.runRequest (s : State) (r : Request) : Ran := if requestInRange r then s.runKind r else .refuse .badValue s

/-- A waiting request at the moment the Chain Unit takes it (R47, R69, R70). -/
def State.takeKind (s : State) : Request → Ran
  | .meterRetire tag => s.takeRetire tag
  | .meterCut tag time => s.takeCut tag time
  | .channelSet channel f => s.takeChannelSet channel (f.enable.getD 0) (f.width.getD 0) (f.noise.getD 0)
  | _ => .wait

/-! ### The reject queue and the receive buffer (R151 to R153) -/

/-- A REJECT offered to the reject queue: it joins while the queue holds fewer than four (R153). -/
def State.addReject (s : State) (cause : RejectCause) (tag : Byte) : State :=
  if s.link.rejects.length < Config.rejects then
    { s with link := { s.link with rejects := s.link.rejects ++ [{ cause := cause, tag := tag }] } }
  else s

/-- The reply of the request in the head place, offered behind the REJECTs now in the queue (R152, R154). -/
def Link.reply (l : Link) (h : Held) (status : Status) (fields : List Byte) (starts : Bool) : Link :=
  { l with
    head := some { held := h, reply := some { kind := replyKind h.kind status, body := replyBody status fields,
                                              startsStream := starts, ahead := l.rejects.length } } }

/-- The end of a request's execution in the head place (R152): its state with its reply offered; a request
that waits leaves everything as it is. -/
def State.settle (s : State) (h : Held) : Ran → State
  | .done status fields s1 starts => { s1 with link := s1.link.reply h status fields starts }
  | .wait => s

/-- A request taken into the head place and executed (R151, R152). -/
def State.serve (s : State) (h : Held) : State :=
  let s1 := { s with link := { s.link with head := some { held := h, reply := none } } }
  s1.settle h (s1.runRequest h.request)

/-- A good frame handed to the receive buffer (R151). -/
def State.deliver (s : State) (h : Held) : State :=
  match s.link.head, s.link.second with
  | none, _ => s.serve h
  | some _, none => { s with link := { s.link with second := some h } }
  | some _, some _ => s.addReject .overrun h.tag

/-- The waiting request in the head place, if it is one that `wanted` picks. -/
def Link.waiting (l : Link) (wanted : Request → Bool) : Option Held :=
  match l.head with
  | some { held := h, reply := none } => if wanted h.request then some h else none
  | _ => none

/-- The Chain Unit takes a waiting request of the wanted kind between applications (R51, R69, R70). -/
def State.takeWaiting (s : State) (wanted : Request → Bool) : State :=
  match s.link.waiting wanted with
  | none => s
  | some h => if s.chain.betweenApplications then s.settle h (s.takeKind h.request) else s

/-! ### The transmit arbiter (R154, R155) -/

/-- What the arbiter may start: the first offered of the reply and the REJECTs, a notice, or the stream's frame. -/
inductive Offer where
  | answer
  | notice
  | stream
deriving DecidableEq, Repr

/-- The head place holds a reply to send (R152). -/
def Link.replying (l : Link) : Bool := l.head.any fun h => h.reply.isSome

/-- What is offered to the arbiter, in its order of precedence (R154). -/
def State.offers (s : State) : List Offer :=
  (if s.link.replying || !s.link.rejects.isEmpty then [.answer] else []) ++
    (if s.notices.queue.isEmpty then [] else [.notice]) ++
    if s.stream.any Stream.offers then [.stream] else []

/-- A frame in transmission (R154). -/
def State.send (s : State) (f : Frame) (source : Source) : State :=
  { s with link := { s.link with sending := some { frame := f, source := source } } }

/-- The request in the second place moved to the head place and executed (R151). -/
def State.promote (s : State) : State :=
  match s.link.second with
  | none => { s with link := { s.link with head := none } }
  | some h => { s with link := { s.link with second := none } }.serve h

/-- The reply in the head place starts: the head place is freed, and a waiting request moves up (R151, R152). -/
def State.startReply (s : State) (h : Held) (r : Reply) : State := (s.send (r.frame h.tag) (.reply r.startsStream)).promote

/-- A REJECT has left the queue: one fewer stands before the reply (R154). -/
def Head.rejectGone (h : Head) : Head :=
  { h with reply := h.reply.map fun r => { r with ahead := r.ahead - 1 } }

/-- The first REJECT of the queue starts (R153). -/
def State.startReject (s : State) : State :=
  match s.link.rejects with
  | [] => s
  | j :: rest => { s with link := { s.link with rejects := rest, head := s.link.head.map Head.rejectGone } }.send j.frame .reject

/-- The first offered of the reply and the REJECTs starts (R154). -/
def State.startAnswer (s : State) : State :=
  match s.link.head with
  | some { held := h, reply := some r } => if r.ahead = 0 ∨ s.link.rejects = [] then s.startReply h r else s.startReject
  | _ => s.startReject

/-- The notice at the head of the notice queue is built and starts (R134). -/
def State.startNotice (s : State) : State :=
  match s.notices.queue with
  | [] => s
  | entry :: _ => (s.buildNotice entry).send (noticeFrame entry (s.flagByte entry)) .notice

/-- The stream's frame is built and starts (R137, R154). -/
def State.startStream (s : State) : State :=
  match s.stream with
  | none => s
  | some st =>
    let (f, source, s1) := s.buildStream st
    s1.send f source

/-- An offered frame started. -/
def State.startOffer (s : State) : Offer → State
  | .answer => s.startAnswer
  | .notice => s.startNotice
  | .stream => s.startStream

/-- The arbiter may start a frame: none is in transmission and HOLD is deasserted (R154, R155); not while RESET
is low (R157). -/
def Link.free (l : Link) : Bool := l.sending.isNone && !l.hold && !l.resetLow

/-- The arbiter at the end of a transmission or at the release of HOLD: the order of R154 among what waits. -/
def State.arbitrate (s : State) : State :=
  if s.link.free then
    match s.offers with
    | [] => s
    | o :: _ => s.startOffer o
  else s

/-- The arbiter after any other step: on a free line what the step offers starts at once, and where one step
offers several frames the world chooses the one that starts (R154, log 19). -/
def State.afterwards (s : State) : State :=
  if s.link.free then
    match s.offers with
    | [] => s
    | o :: rest =>
      let (i, s1) := choose (rest.length + 1) s
      s1.startOffer ((o :: rest).getD i o)
  else s

/-- A stream whose starting reply has been transmitted offers its first frame (R137). -/
def Stream.replySent (st : Stream) : Stream := if st.phase = .awaitReply then { st with phase := .offered } else st

/-- A stream whose frame has been transmitted waits the stream interval, or with an interval of 0 offers its
next frame at once (R137, log 8). -/
def Stream.frameSent (interval : Nat) (st : Stream) : Stream :=
  if st.phase = .sending then { st with phase := if interval = 0 then .offered else .interval interval } else st

/-- What the end of a frame's transmission means to the stream (R137). -/
def State.afterFrame (s : State) : Source → State
  | .reply starts => if starts then { s with stream := s.stream.map Stream.replySent } else s
  | .reject => s
  | .notice => s
  | .streamFrame => { s with stream := s.stream.map (Stream.frameSent s.settings.interval) }
  | .endFrame => s

/-- The end of the transmission under way (R154): the next offered frame starts. -/
def State.endTransmission (s : State) : State :=
  match s.link.sending with
  | none => s
  | some f => ({ s with link := { s.link with sending := none } }.afterFrame f.source).arbitrate

/-- The stream interval has passed: the next frame is offered (R137). -/
def Stream.intervalOver (st : Stream) : Stream :=
  match st.phase with
  | .interval _ => { st with phase := .offered }
  | _ => st

/-! ### The frame receiver (R146, R148, R150) -/

/-- The TAG of a frame in reception, 0 while it has not been received (R150). -/
def tagSoFar (got : List Byte) : Byte := got.getD 2 0

/-- A frame in reception abandoned: hunting, and a REJECT (R150), which on a free line starts at once (R154); while
hunting nothing happens. -/
def State.abandon (s : State) (cause : RejectCause) : State :=
  match s.link.rx with
  | .hunting => s
  | .inFrame got => ({ s with link := { s.link with rx := .hunting } }.addReject cause (tagSoFar got)).afterwards

/-- A frame whose last CRC byte has been taken, judged on its envelope (R148, R150): `got` is LEN, KIND, TAG,
BODY and the two CRC bytes. What it makes the part offer starts at once on a free line (R154). -/
def State.judgeFrame (s : State) (got : List Byte) : State :=
  let body := (got.drop 3).take (got.length - 5)
  let kind := got.getD 1 0
  let s1 := { s with link := { s.link with rx := .hunting } }
  if crcBytes (crc16 (got.take (got.length - 2))) = got.drop (got.length - 2) then
    (s1.deliver { kind := kind, tag := got.getD 2 0, request := parseRequest kind body }).afterwards
  else (s1.addReject .check (got.getD 2 0)).afterwards

/-- A byte taken by the frame receiver (R148). -/
def State.receiveByte (s : State) (b : Byte) : State :=
  match s.link.rx with
  | .hunting => if b = Config.syncByte then { s with link := { s.link with rx := .inFrame [] } } else s
  | .inFrame got =>
    let got1 := got ++ [b]
    let s1 := { s with link := { s.link with rx := .inFrame got1 } }
    let len := (got1.getD 0 0).toNat
    if Config.maxBody < len then s1.abandon .tooLong
    else if got1.length = len + 5 then s1.judgeFrame got1
    else s1

/-- Bytes taken by the frame receiver one after another (R148). -/
def State.receiveBytes (s : State) (bytes : List Byte) : State := bytes.foldl State.receiveByte s

/-- RXD high between characters: the character receiver waits for a falling edge (R146). Rows that stand for whole
characters, and a silence, find or leave the line so (log 30). -/
def State.lineHigh (s : State) : State := { s with link := { s.link with line := .idle } }

/-- Bytes received as whole characters, the first of which finds RXD high; where there are none, the character
receiver stays as it is (log 30). -/
def State.receiveWhole (s : State) (received : List Byte) : State :=
  if received = [] then s else s.lineHigh.receiveBytes received

/-- The bytes of a frame after its SYNC, behind a SYNC that the receiver has taken already, or takes first
(log 30). -/
def State.receiveFrame (s : State) (bytes : List Byte) : State :=
  match s.link.rx with
  | .inFrame [] => s.lineHigh.receiveBytes bytes
  | _ => s.lineHigh.receiveBytes (Config.syncByte :: bytes)

/-- A character taken from RXD (R146): its byte, or a character error handed to the frame receiver (log 21). -/
def State.receiveCharacter (s : State) (c : Character) : State :=
  if s.link.parity.accepts c then s.receiveByte c.data else s.abandon .charError

/-- One bit time of RXD: the character receiver takes its level, and a character it completes is handed on (R146). -/
def State.receiveLevel (s : State) (level : Bool) : State :=
  let taken := s.link.line.take s.link.parity level
  let s1 := { s with link := { s.link with line := taken.1 } }
  match taken.2 with
  | none => s1
  | some c => s1.receiveCharacter c

/-- The levels of RXD, bit time by bit time (R146). -/
def State.receiveLevels (s : State) (levels : List Bool) : State := levels.foldl State.receiveLevel s

/-- A good frame received from a hunting receiver, by its KIND, TAG and request (log 2). -/
def State.receive (s : State) (kind tag : Byte) (r : Request) : State :=
  { s with link := { s.link with line := .idle, rx := .hunting } }.deliver { kind := kind, tag := tag, request := r }

/-! ### RESET and power (R145, R157) -/

/-- A channel's record as a reset leaves it: its line is where the outside holds it (R43, log 18). -/
def Channel.afterReset (c : Channel) : Channel := { Channel.initial with lineLow := c.lineLow }

/-- Every block in its reset state, behind a link as given; the queue of commands, the world's choices and the
levels of the input lines are the outside's and stay (R18, R157, log 5, log 18). -/
def State.resetBlocks (s : State) (l : Link) : State :=
  { State.reset with
    channels := (s.channels.map fun p => (p.1, p.2.afterReset)).filter fun p => p.2 ≠ Channel.initial
    link := l, pending := s.pending, world := s.world, choices := s.choices }

/-- The release of RESET: the straps sampled, every block in its reset state (R145, R157). -/
def State.released (s : State) (p : Straps) : State :=
  s.resetBlocks (Link.released (Straps.rate p) (Straps.parity p) s.link.hold)

/-- RESET held low, no frame in transmission (R157). -/
def State.assertReset (s : State) : State := { s with link := { s.link with resetLow := true, sending := none } }

/-- What a command does while RESET is not held low; while it is, the part does not respond (R157, log 5). -/
def State.live (s : State) (f : State → State) : State := if s.link.resetLow then s else f s

end Sys2Proof.Machine
end

