-- ==== Sys2Proof/WellFormed.lean ====
section
/-! DEFINITION. Which commands the outside can really send: every number fits the bytes R159 gives its
field, every list fits a body of 250 bytes (R148), every line and descriptor named exists. A value that fits
its field and lies outside its RANGE is well formed: the part answers it (R2 step 1). -/

namespace Sys2Proof

/-- A number that fits a field of `k` bytes (R159). -/
def fits (k n : Nat) : Bool := n < 256 ^ k

/-- An optional number whose value, when present, fits a field of `k` bytes. -/
def fitsOpt (k : Nat) (n : Option Nat) : Bool := n.all (fits k)

/-- An entry of ZONE SET ALLOWANCE that can be sent (R8, R159). -/
def User.wellFormed (u : User) : Bool :=
  fits 4 u.tag && fits 2 u.allowance && fitsOpt 1 u.weekdays && fitsOpt 2 u.validUntil

/-- The parameters of ZONE SET TESTS that can be sent (R9, R159). -/
def Tests.wellFormed (t : Tests) : Bool :=
  fits 1 t.learn && fits 1 t.weight && fits 4 t.burst && fits 1 t.persist && fits 4 t.slack &&
    fits 4 t.limit && fits 2 t.settleLength

/-- The fields of METER DEFINE that can be sent (R14, R159). -/
def MeterSpec.wellFormed (m : MeterSpec) : Bool :=
  fits 4 m.tag && fits 1 m.kind && fits 2 m.upstream && fits 2 m.downstream && fits 1 m.modulus &&
    fits 1 m.scale && fits 4 m.maxRate && fitsOpt 4 m.maxGap && fitsOpt 1 m.channel

/-- A reading record that can be sent: the offset has 23 bits (R162). -/
def ReadingSpec.wellFormed (r : ReadingSpec) : Bool :=
  fits 4 r.tag && (r.offset < 8388608 : Bool) && fits 4 r.forward && fitsOpt 4 r.reverse

/-- A request a frame can carry, apart from the three that stand for a refused body. -/
def Request.wellFormed : Request → Bool
  | .identify => true
  | .systemSet f => fitsOpt 1 f.slotLength && fitsOpt 2 f.reserve && fitsOpt 1 f.noticeMode && fitsOpt 1 f.interval
  | .poolStatus => true
  | .flush => true
  | .ack entry flags => fits 2 entry && fits 1 flags
  | .clockSet time weekday => fitsOpt 4 time && fitsOpt 1 weekday
  | .surveyArm zone f _ => fits 2 zone && fits 4 f.start && fits 1 f.slots && fits 1 f.runLength
  | .surveyCancel zone => fits 2 zone
  | .zoneDefine zone => fits 2 zone
  | .zoneStart zone => fits 2 zone
  | .zoneStop zone => fits 2 zone
  | .zoneUndefine zone => fits 2 zone
  | .zoneSetWindow zone f =>
    fits 2 zone && fits 2 f.start && fits 1 f.slots && fitsOpt 1 f.runLength && fitsOpt 2 f.delay
  | .zoneSetAllowance zone properties perProperty users =>
    fits 2 zone && fits 2 properties && fits 1 perProperty && (users.length ≤ 22 : Bool) && users.all User.wellFormed
  | .zoneSetTests zone f => fits 2 zone && f.wellFormed
  | .disturb zone start stop => fits 2 zone && fits 4 start && fits 4 stop
  | .meterDefine f => f.wellFormed
  | .meterRetire tag => fits 4 tag
  | .meterCut tag time => fits 4 tag && fits 4 time
  | .meterStatus tag => fits 4 tag
  | .exceptionsTag tag => fits 4 tag
  | .exceptionsSweep index => fits 2 index
  | .readings base records =>
    fits 4 base && (records.length ≤ 16 : Bool) && records.all ReadingSpec.wellFormed
  | .channelSet channel f => fits 1 channel && fitsOpt 1 f.enable && fitsOpt 1 f.width && fitsOpt 1 f.noise
  | .dispose zone disposition _ => fits 2 zone && fits 1 disposition
  | .rebaseline zone => fits 2 zone
  | .baselineGet zone => fits 2 zone
  | .baselinePut zone baseline count cusum =>
    fits 2 zone && (-2147483648 ≤ baseline : Bool) && (baseline ≤ 2147483647 : Bool) && fits 1 count && fits 4 cusum
  | .resultGet zone selector => fits 2 zone && fits 1 selector
  | .zoneStatus zone => fits 2 zone
  | .rollcall first last mode => fits 2 first && fits 2 last && fits 1 mode
  | .rollcallNext => true
  | .rollcallStop => true
  | .profile zone descriptor => fits 2 zone && fits 1 descriptor
  | .unknown => false
  | .badLength => false
  | .badValue => false

/-- A KIND that names a request (R160). -/
def Byte.namesRequest (kind : Byte) : Bool := 0x01 ≤ kind.toNat && kind.toNat ≤ 0x21

/-- A command the outside, or the block that takes the step, can really give. -/
def Instr.wellFormed : Instr → Bool
  | .powerOn _ _ => true
  | .resetAssert => true
  | .resetRelease _ => true
  | .tick => true
  | .pulseFallingEdge channel => (channel < 8 : Bool)
  | .pulseRisingEdge channel _ => (channel < 8 : Bool)
  | .charError received _ => (received.length ≤ 256 : Bool)
  | .tooLong len => (250 < len.toNat : Bool)
  | .timeout received => (received.length ≤ 256 : Bool)
  | .frame _ _ body _ => (body.length ≤ 250 : Bool)
  | .unknownKind kind _ => !Byte.namesRequest kind
  | .transmissionEnd => true
  | .streamIntervalExpiry => true
  | .holdAssert => true
  | .holdDeassert => true
  | .identify _ => true
  | .systemSet _ f => (Request.systemSet f).wellFormed
  | .poolStatus _ => true
  | .flush _ => true
  | .ack _ entry flags => (Request.ack entry flags).wellFormed
  | .clockSet _ time weekday => (Request.clockSet time weekday).wellFormed
  | .surveyArm _ zone f => (Request.surveyArm zone f false).wellFormed
  | .surveyArmReplace _ zone f => (Request.surveyArm zone f true).wellFormed
  | .surveyCancel _ zone => (Request.surveyCancel zone).wellFormed
  | .zoneDefine _ zone => (Request.zoneDefine zone).wellFormed
  | .zoneStart _ zone => (Request.zoneStart zone).wellFormed
  | .zoneStop _ zone => (Request.zoneStop zone).wellFormed
  | .zoneUndefine _ zone => (Request.zoneUndefine zone).wellFormed
  | .zoneSetWindow _ zone f => (Request.zoneSetWindow zone f).wellFormed
  | .zoneSetAllowance _ zone properties perProperty users =>
    (Request.zoneSetAllowance zone properties perProperty users).wellFormed
  | .zoneSetTests _ zone f => (Request.zoneSetTests zone f).wellFormed
  | .disturb _ zone start stop => (Request.disturb zone start stop).wellFormed
  | .meterDefine _ f => (Request.meterDefine f).wellFormed
  | .meterRetire _ meterTag => (Request.meterRetire meterTag).wellFormed
  | .retireTaken => true
  | .meterCut _ meterTag time => (Request.meterCut meterTag time).wellFormed
  | .cutTaken => true
  | .meterStatus _ meterTag => (Request.meterStatus meterTag).wellFormed
  | .meterExceptionsTag _ meterTag => (Request.exceptionsTag meterTag).wellFormed
  | .meterExceptionsSweep _ index => (Request.exceptionsSweep index).wellFormed
  | .readings _ base records => (Request.readings base records).wellFormed
  | .channelSet _ channel f =>
    (Request.channelSet channel f).wellFormed && (f.enable.isSome || f.width.isSome || f.noise.isSome)
  | .channelSetTaken => true
  | .channelSetRead _ channel => fits 1 channel
  | .dismiss _ zone _ => fits 2 zone
  | .confirm _ zone _ => fits 2 zone
  | .repaired _ zone _ => fits 2 zone
  | .rebaseline _ zone => (Request.rebaseline zone).wellFormed
  | .baselineGet _ zone => (Request.baselineGet zone).wellFormed
  | .baselinePut _ zone baseline count cusum => (Request.baselinePut zone baseline count cusum).wellFormed
  | .resultGet _ zone selector => (Request.resultGet zone selector).wellFormed
  | .zoneStatus _ zone => (Request.zoneStatus zone).wellFormed
  | .rollcall _ first last mode => (Request.rollcall first last mode).wellFormed
  | .rollcallNext _ => true
  | .rollcallStop _ => true
  | .profile _ zone descriptor => (Request.profile zone descriptor).wellFormed
  | .takeReading => true
  | .chainDecision => true
  | .placement zone descriptor => (1 ≤ zone : Bool) && (zone ≤ 256 : Bool) && (descriptor < 3 : Bool)
  | .assessorTake => true
  | .assessmentCompletion => true
  | .sync => true

end Sys2Proof
end

