-- ==== Sys2Proof/Machine/Events.lean ====
section
/-! DEFINITION. The rows of the table that are no requests: reset and pins, the clock, reception and
transmission on the link, and the steps of the Chain Unit and the Assessor. A step whose condition does not hold
changes nothing (log 3); while RESET is held low only the pins act (log 5). -/

namespace Sys2Proof.Machine

/-! ### Reset and power (R145, R157) -/

/-- POWER_ON (R157): the power-on state; the straps are sampled at once where RESET is not low, else at its
release (R145, log 4). -/
def execPowerOn (resetLow : Bool) (straps : Straps) (s : State) : Host.Outcome State Fault Refusal :=
  if resetLow then .next (s.resetBlocks { Link.released .b9600 .none s.link.hold with resetLow := true })
  else .next (s.released straps)

/-- RESET_ASSERT (R157). -/
def execResetAssert (s : State) : Host.Outcome State Fault Refusal := .next s.assertReset

/-- RESET_RELEASE (R145, R157). -/
def execResetRelease (straps : Straps) (s : State) : Host.Outcome State Fault Refusal := .next (s.released straps)

/-! ### The clock and the pulse inputs (R20, R44) -/

/-- TICK (R20). -/
def execTick (s : State) : Host.Outcome State Fault Refusal := .next (s.live fun s => s.tick.afterwards)

/-- A channel's input goes low; while RESET is low only the level is kept (R44, log 5, log 24). -/
def State.fallingEdge (s : State) (channel : Nat) : State :=
  if Config.channels ≤ channel then s
  else if s.link.resetLow then s.setChannel channel { s.channel channel with lineLow := true }
  else s.setChannel channel (s.channel channel).fall

/-- A channel's input goes high (R44, log 5, log 24). -/
def State.risingEdge (s : State) (channel micros : Nat) : State :=
  if Config.channels ≤ channel then s
  else if s.link.resetLow then s.setChannel channel { s.channel channel with lineLow := false }
  else s.setChannel channel ((s.channel channel).rise micros)

/-- PULSE_FALLING_EDGE (R44). -/
def execPulseFallingEdge (channel : Nat) (s : State) : Host.Outcome State Fault Refusal := .next (s.fallingEdge channel)

/-- PULSE_RISING_EDGE (R44). -/
def execPulseRisingEdge (channel lowMicros : Nat) (s : State) : Host.Outcome State Fault Refusal := .next (s.risingEdge channel lowMicros)

/-! ### Reception (R146, R148, R150) -/

/-- CHAR_ERROR (R146, R150): the bytes before it, then the levels of RXD that bring it, each character of them taken in
turn (log 21, log 30). -/
def execCharError (received : List Byte) (levels : List Bool) (s : State) : Host.Outcome State Fault Refusal :=
  .next (s.live fun s => ((s.receiveWhole received).receiveLevels levels).afterwards)

/-- TOO_LONG (R150). -/
def execTooLong (len : Byte) (s : State) : Host.Outcome State Fault Refusal :=
  .next (s.live fun s => (s.receiveFrame [len]).afterwards)

/-- TIMEOUT (R150): the bytes before it, then the silence (log 30). -/
def execTimeout (received : List Byte) (s : State) : Host.Outcome State Fault Refusal :=
  .next (s.live fun s => ((s.lineHigh.receiveBytes received).abandon .timeout).afterwards)

/-- FRAME (R148): LEN is the length of the body. -/
def execFrame (kind tag : Byte) (body : List Byte) (crc : BitVec 16) (s : State) : Host.Outcome State Fault Refusal :=
  .next (s.live fun s => (s.receiveFrame (byte body.length :: kind :: tag :: body ++ crcBytes crc)).afterwards)

/-- SYNC (R148). -/
def execSync (s : State) : Host.Outcome State Fault Refusal :=
  .next (s.live fun s => (s.lineHigh.receiveByte Config.syncByte).afterwards)

/-- UNKNOWN_KIND (R152): a good frame whose KIND names no request. -/
def execUnknownKind (kind tag : Byte) (s : State) : Host.Outcome State Fault Refusal :=
  .next (s.live fun s => if Byte.namesRequest kind then s else (s.receive kind tag .unknown).afterwards)

/-! ### Transmission (R137, R154, R155) -/

/-- TRANSMISSION_END (R154). -/
def execTransmissionEnd (s : State) : Host.Outcome State Fault Refusal := .next (s.live State.endTransmission)

/-- STREAM_INTERVAL_EXPIRY (R137). -/
def execStreamIntervalExpiry (s : State) : Host.Outcome State Fault Refusal :=
  .next (s.live fun s => { s with stream := s.stream.map Stream.intervalOver }.afterwards)

/-- HOLD_ASSERT (R155). -/
def execHoldAssert (s : State) : Host.Outcome State Fault Refusal := .next { s with link := { s.link with hold := true } }

/-- HOLD_DEASSERT (R155). -/
def execHoldDeassert (s : State) : Host.Outcome State Fault Refusal :=
  .next { s with link := { s.link with hold := false } }.arbitrate

/-! ### The Chain Unit (R40, R47, R51, R69, R70) -/

/-- A METER RETIRE. -/
def Request.isRetire : Request → Bool
  | .meterRetire _ => true
  | _ => false

/-- A METER CUT. -/
def Request.isCut : Request → Bool
  | .meterCut _ _ => true
  | _ => false

/-- A CHANNEL SET. -/
def Request.isChannelSet : Request → Bool
  | .channelSet _ _ => true
  | _ => false

/-- RETIRE_TAKEN (R70). -/
def execRetireTaken (s : State) : Host.Outcome State Fault Refusal :=
  .next (s.live fun s => (s.takeWaiting Request.isRetire).afterwards)

/-- CUT_TAKEN (R69). -/
def execCutTaken (s : State) : Host.Outcome State Fault Refusal :=
  .next (s.live fun s => (s.takeWaiting Request.isCut).afterwards)

/-- CHANNEL_SET_TAKEN (R47). -/
def execChannelSetTaken (s : State) : Host.Outcome State Fault Refusal :=
  .next (s.live fun s => (s.takeWaiting Request.isChannelSet).afterwards)

/-- TAKE_READING (R40). -/
def execTakeReading (s : State) : Host.Outcome State Fault Refusal := .next (s.live fun s => s.takeReading.afterwards)

/-- CHAIN_DECISION (R51 to R59). -/
def execChainDecision (s : State) : Host.Outcome State Fault Refusal := .next (s.live fun s => s.chainDecision.afterwards)

/-- PLACEMENT (R60 to R65). -/
def execPlacement (zone descriptor : Nat) (s : State) : Host.Outcome State Fault Refusal :=
  .next (s.live fun s => (s.placement { zone := zone, desc := descriptor }).afterwards)

/-! ### The Assessor (R93, R105) -/

/-- ASSESSOR_TAKE (R93 to R101). -/
def execAssessorTake (s : State) : Host.Outcome State Fault Refusal := .next (s.live fun s => s.assessorTake.afterwards)

/-- ASSESSMENT_COMPLETION (R102 to R105). -/
def execAssessmentCompletion (s : State) : Host.Outcome State Fault Refusal :=
  .next (s.live fun s => s.completeAssessment.afterwards)

end Sys2Proof.Machine
end

