-- ==== Sys2Proof/Machine/Requests.lean ====
section
/-! DEFINITION. The request rows: each stands for the reception of a good frame that carries the request
(log 2). One meaning per row; what the request does is its handler in Zones, Meters, Readings, System and
Streams, reached through the receive buffer (R151, R152). -/

namespace Sys2Proof.Machine

/-- The reception of a good frame of this KIND, TAG and request, and what the arbiter then starts (R148, R151,
R152, R154). -/
def State.request (s : State) (kind tag : Byte) (r : Request) : State := s.live fun s => (s.receive kind tag r).afterwards

/-- IDENTIFY (R156). -/
def execIdentify (tag : Byte) (s : State) : Host.Outcome State Fault Refusal :=
  .next (s.request 0x01 tag .identify)

/-- SYSTEM SET (R30). -/
def execSystemSet (tag : Byte) (f : SystemSpec) (s : State) : Host.Outcome State Fault Refusal :=
  .next (s.request 0x02 tag (.systemSet f))

/-- POOL STATUS (R91). -/
def execPoolStatus (tag : Byte) (s : State) : Host.Outcome State Fault Refusal :=
  .next (s.request 0x03 tag .poolStatus)

/-- FLUSH (R158). -/
def execFlush (tag : Byte) (s : State) : Host.Outcome State Fault Refusal :=
  .next (s.request 0x04 tag .flush)

/-- ACK (R135). -/
def execAck (tag : Byte) (entry flags : Nat) (s : State) : Host.Outcome State Fault Refusal :=
  .next (s.request 0x05 tag (.ack entry flags))

/-- CLOCK SET (R21, R22). -/
def execClockSet (tag : Byte) (time weekday : Option Nat) (s : State) : Host.Outcome State Fault Refusal :=
  .next (s.request 0x06 tag (.clockSet time weekday))

/-- SURVEY ARM without REPLACE (R31). -/
def execSurveyArm (tag : Byte) (zone : Nat) (f : SurveySpec) (s : State) : Host.Outcome State Fault Refusal :=
  .next (s.request 0x07 tag (.surveyArm zone f false))

/-- SURVEY ARM with REPLACE (R32). -/
def execSurveyArmReplace (tag : Byte) (zone : Nat) (f : SurveySpec) (s : State) : Host.Outcome State Fault Refusal :=
  .next (s.request 0x07 tag (.surveyArm zone f true))

/-- SURVEY CANCEL (R34). -/
def execSurveyCancel (tag : Byte) (zone : Nat) (s : State) : Host.Outcome State Fault Refusal :=
  .next (s.request 0x08 tag (.surveyCancel zone))

/-- ZONE DEFINE (R3). -/
def execZoneDefine (tag : Byte) (zone : Nat) (s : State) : Host.Outcome State Fault Refusal :=
  .next (s.request 0x09 tag (.zoneDefine zone))

/-- ZONE START (R4). -/
def execZoneStart (tag : Byte) (zone : Nat) (s : State) : Host.Outcome State Fault Refusal :=
  .next (s.request 0x0A tag (.zoneStart zone))

/-- ZONE STOP (R5). -/
def execZoneStop (tag : Byte) (zone : Nat) (s : State) : Host.Outcome State Fault Refusal :=
  .next (s.request 0x0B tag (.zoneStop zone))

/-- ZONE UNDEFINE (R6). -/
def execZoneUndefine (tag : Byte) (zone : Nat) (s : State) : Host.Outcome State Fault Refusal :=
  .next (s.request 0x0C tag (.zoneUndefine zone))

/-- ZONE SET WINDOW (R7). -/
def execZoneSetWindow (tag : Byte) (zone : Nat) (f : WindowSpec) (s : State) : Host.Outcome State Fault Refusal :=
  .next (s.request 0x0D tag (.zoneSetWindow zone f))

/-- ZONE SET ALLOWANCE (R8). -/
def execZoneSetAllowance (tag : Byte) (zone properties perProperty : Nat) (users : List User) (s : State) : Host.Outcome State Fault Refusal :=
  .next (s.request 0x0E tag (.zoneSetAllowance zone properties perProperty users))

/-- ZONE SET TESTS (R9). -/
def execZoneSetTests (tag : Byte) (zone : Nat) (f : Tests) (s : State) : Host.Outcome State Fault Refusal :=
  .next (s.request 0x0F tag (.zoneSetTests zone f))

/-- DISTURB (R10). -/
def execDisturb (tag : Byte) (zone start stop : Nat) (s : State) : Host.Outcome State Fault Refusal :=
  .next (s.request 0x10 tag (.disturb zone start stop))

/-- METER DEFINE (R14). -/
def execMeterDefine (tag : Byte) (f : MeterSpec) (s : State) : Host.Outcome State Fault Refusal :=
  .next (s.request 0x11 tag (.meterDefine f))

/-- METER RETIRE as a request (R15, R70). -/
def execMeterRetire (tag : Byte) (meterTag : Nat) (s : State) : Host.Outcome State Fault Refusal :=
  .next (s.request 0x12 tag (.meterRetire meterTag))

/-- METER CUT as a request (R16, R69). -/
def execMeterCut (tag : Byte) (meterTag time : Nat) (s : State) : Host.Outcome State Fault Refusal :=
  .next (s.request 0x13 tag (.meterCut meterTag time))

/-- METER STATUS (R67). -/
def execMeterStatus (tag : Byte) (meterTag : Nat) (s : State) : Host.Outcome State Fault Refusal :=
  .next (s.request 0x14 tag (.meterStatus meterTag))

/-- METER EXCEPTIONS with a tag (R68). -/
def execMeterExceptionsTag (tag : Byte) (meterTag : Nat) (s : State) : Host.Outcome State Fault Refusal :=
  .next (s.request 0x15 tag (.exceptionsTag meterTag))

/-- METER EXCEPTIONS, the sweep form (R68). -/
def execMeterExceptionsSweep (tag : Byte) (index : Nat) (s : State) : Host.Outcome State Fault Refusal :=
  .next (s.request 0x15 tag (.exceptionsSweep index))

/-- READINGS (R37). -/
def execReadings (tag : Byte) (base : Nat) (records : List ReadingSpec) (s : State) : Host.Outcome State Fault Refusal :=
  .next (s.request 0x16 tag (.readings base records))

/-- CHANNEL SET (R47). -/
def execChannelSet (tag : Byte) (channel : Nat) (f : ChannelSpec) (s : State) : Host.Outcome State Fault Refusal :=
  .next (s.request 0x17 tag (.channelSet channel f))

/-- CHANNEL SET carrying a channel number alone (R48). -/
def execChannelSetRead (tag : Byte) (channel : Nat) (s : State) : Host.Outcome State Fault Refusal :=
  .next (s.request 0x17 tag (.channelSet channel { enable := none, width := none, noise := none }))

/-- DISPOSE with DISMISS (R122). -/
def execDismiss (tag : Byte) (zone : Nat) (absorb : Bool) (s : State) : Host.Outcome State Fault Refusal :=
  .next (s.request 0x18 tag (.dispose zone 0 absorb))

/-- DISPOSE with CONFIRM (R123). -/
def execConfirm (tag : Byte) (zone : Nat) (absorb : Bool) (s : State) : Host.Outcome State Fault Refusal :=
  .next (s.request 0x18 tag (.dispose zone 1 absorb))

/-- DISPOSE with REPAIRED (R124). -/
def execRepaired (tag : Byte) (zone : Nat) (absorb : Bool) (s : State) : Host.Outcome State Fault Refusal :=
  .next (s.request 0x18 tag (.dispose zone 2 absorb))

/-- REBASELINE (R127). -/
def execRebaseline (tag : Byte) (zone : Nat) (s : State) : Host.Outcome State Fault Refusal :=
  .next (s.request 0x19 tag (.rebaseline zone))

/-- BASELINE GET (R129). -/
def execBaselineGet (tag : Byte) (zone : Nat) (s : State) : Host.Outcome State Fault Refusal :=
  .next (s.request 0x1A tag (.baselineGet zone))

/-- BASELINE PUT (R128). -/
def execBaselinePut (tag : Byte) (zone : Nat) (baseline : Int) (count cusum : Nat) (s : State) : Host.Outcome State Fault Refusal :=
  .next (s.request 0x1B tag (.baselinePut zone baseline count cusum))

/-- RESULT GET (R143). -/
def execResultGet (tag : Byte) (zone selector : Nat) (s : State) : Host.Outcome State Fault Refusal :=
  .next (s.request 0x1C tag (.resultGet zone selector))

/-- ZONE STATUS (R144). -/
def execZoneStatus (tag : Byte) (zone : Nat) (s : State) : Host.Outcome State Fault Refusal :=
  .next (s.request 0x1D tag (.zoneStatus zone))

/-- ROLLCALL (R138). -/
def execRollcall (tag : Byte) (first last mode : Nat) (s : State) : Host.Outcome State Fault Refusal :=
  .next (s.request 0x1E tag (.rollcall first last mode))

/-- ROLLCALL NEXT (R139). -/
def execRollcallNext (tag : Byte) (s : State) : Host.Outcome State Fault Refusal :=
  .next (s.request 0x1F tag .rollcallNext)

/-- ROLLCALL STOP (R140). -/
def execRollcallStop (tag : Byte) (s : State) : Host.Outcome State Fault Refusal :=
  .next (s.request 0x20 tag .rollcallStop)

/-- PROFILE (R141). -/
def execProfile (tag : Byte) (zone descriptor : Nat) (s : State) : Host.Outcome State Fault Refusal :=
  .next (s.request 0x21 tag (.profile zone descriptor))

end Sys2Proof.Machine
end

