-- ==== Sys2Proof/Machine/Dispatch.lean ====
section
/-! DEFINITION. The dispatch: one arm per command, in the order of spec/opcode_table.json. -/

namespace Sys2Proof.Machine

def exec (i : Instr) (s : State) : Host.Outcome State Fault Refusal :=
  match i with
  | .powerOn resetLow straps => Sys2Proof.Machine.execPowerOn resetLow straps s
  | .resetAssert => Sys2Proof.Machine.execResetAssert s
  | .resetRelease straps => Sys2Proof.Machine.execResetRelease straps s
  | .tick => Sys2Proof.Machine.execTick s
  | .pulseFallingEdge channel => Sys2Proof.Machine.execPulseFallingEdge channel s
  | .pulseRisingEdge channel lowMicros => Sys2Proof.Machine.execPulseRisingEdge channel lowMicros s
  | .charError received levels => Sys2Proof.Machine.execCharError received levels s
  | .tooLong len => Sys2Proof.Machine.execTooLong len s
  | .timeout received => Sys2Proof.Machine.execTimeout received s
  | .frame kind tag body crc => Sys2Proof.Machine.execFrame kind tag body crc s
  | .unknownKind kind tag => Sys2Proof.Machine.execUnknownKind kind tag s
  | .transmissionEnd => Sys2Proof.Machine.execTransmissionEnd s
  | .streamIntervalExpiry => Sys2Proof.Machine.execStreamIntervalExpiry s
  | .holdAssert => Sys2Proof.Machine.execHoldAssert s
  | .holdDeassert => Sys2Proof.Machine.execHoldDeassert s
  | .identify tag => Sys2Proof.Machine.execIdentify tag s
  | .systemSet tag f => Sys2Proof.Machine.execSystemSet tag f s
  | .poolStatus tag => Sys2Proof.Machine.execPoolStatus tag s
  | .flush tag => Sys2Proof.Machine.execFlush tag s
  | .ack tag entry flags => Sys2Proof.Machine.execAck tag entry flags s
  | .clockSet tag time weekday => Sys2Proof.Machine.execClockSet tag time weekday s
  | .surveyArm tag zone f => Sys2Proof.Machine.execSurveyArm tag zone f s
  | .surveyArmReplace tag zone f => Sys2Proof.Machine.execSurveyArmReplace tag zone f s
  | .surveyCancel tag zone => Sys2Proof.Machine.execSurveyCancel tag zone s
  | .zoneDefine tag zone => Sys2Proof.Machine.execZoneDefine tag zone s
  | .zoneStart tag zone => Sys2Proof.Machine.execZoneStart tag zone s
  | .zoneStop tag zone => Sys2Proof.Machine.execZoneStop tag zone s
  | .zoneUndefine tag zone => Sys2Proof.Machine.execZoneUndefine tag zone s
  | .zoneSetWindow tag zone f => Sys2Proof.Machine.execZoneSetWindow tag zone f s
  | .zoneSetAllowance tag zone properties perProperty users => Sys2Proof.Machine.execZoneSetAllowance tag zone properties perProperty users s
  | .zoneSetTests tag zone f => Sys2Proof.Machine.execZoneSetTests tag zone f s
  | .disturb tag zone start stop => Sys2Proof.Machine.execDisturb tag zone start stop s
  | .meterDefine tag f => Sys2Proof.Machine.execMeterDefine tag f s
  | .meterRetire tag meterTag => Sys2Proof.Machine.execMeterRetire tag meterTag s
  | .retireTaken => Sys2Proof.Machine.execRetireTaken s
  | .meterCut tag meterTag time => Sys2Proof.Machine.execMeterCut tag meterTag time s
  | .cutTaken => Sys2Proof.Machine.execCutTaken s
  | .meterStatus tag meterTag => Sys2Proof.Machine.execMeterStatus tag meterTag s
  | .meterExceptionsTag tag meterTag => Sys2Proof.Machine.execMeterExceptionsTag tag meterTag s
  | .meterExceptionsSweep tag index => Sys2Proof.Machine.execMeterExceptionsSweep tag index s
  | .readings tag base records => Sys2Proof.Machine.execReadings tag base records s
  | .channelSet tag channel f => Sys2Proof.Machine.execChannelSet tag channel f s
  | .channelSetTaken => Sys2Proof.Machine.execChannelSetTaken s
  | .channelSetRead tag channel => Sys2Proof.Machine.execChannelSetRead tag channel s
  | .dismiss tag zone absorb => Sys2Proof.Machine.execDismiss tag zone absorb s
  | .confirm tag zone absorb => Sys2Proof.Machine.execConfirm tag zone absorb s
  | .repaired tag zone absorb => Sys2Proof.Machine.execRepaired tag zone absorb s
  | .rebaseline tag zone => Sys2Proof.Machine.execRebaseline tag zone s
  | .baselineGet tag zone => Sys2Proof.Machine.execBaselineGet tag zone s
  | .baselinePut tag zone baseline count cusum => Sys2Proof.Machine.execBaselinePut tag zone baseline count cusum s
  | .resultGet tag zone selector => Sys2Proof.Machine.execResultGet tag zone selector s
  | .zoneStatus tag zone => Sys2Proof.Machine.execZoneStatus tag zone s
  | .rollcall tag first last mode => Sys2Proof.Machine.execRollcall tag first last mode s
  | .rollcallNext tag => Sys2Proof.Machine.execRollcallNext tag s
  | .rollcallStop tag => Sys2Proof.Machine.execRollcallStop tag s
  | .profile tag zone descriptor => Sys2Proof.Machine.execProfile tag zone descriptor s
  | .takeReading => Sys2Proof.Machine.execTakeReading s
  | .chainDecision => Sys2Proof.Machine.execChainDecision s
  | .placement zone descriptor => Sys2Proof.Machine.execPlacement zone descriptor s
  | .assessorTake => Sys2Proof.Machine.execAssessorTake s
  | .assessmentCompletion => Sys2Proof.Machine.execAssessmentCompletion s
  | .sync => Sys2Proof.Machine.execSync s

end Sys2Proof.Machine
end

