-- ==== Sys2Proof/Safety.lean ====
section
/-! DEFINITION. What the statements are written in: the request a row carries, the state a request is executed
in, its answer, and the invariants of the part. -/

namespace Sys2Proof

/-! ### Request rows -/

/-- The KIND, TAG and request that a request row carries; none for a row that is no request. -/
def Instr.requestOf : Instr → Option (Byte × Byte × Request)
  | .identify tag => some (0x01, tag, .identify)
  | .systemSet tag f => some (0x02, tag, .systemSet f)
  | .poolStatus tag => some (0x03, tag, .poolStatus)
  | .flush tag => some (0x04, tag, .flush)
  | .ack tag entry flags => some (0x05, tag, .ack entry flags)
  | .clockSet tag time weekday => some (0x06, tag, .clockSet time weekday)
  | .surveyArm tag zone f => some (0x07, tag, .surveyArm zone f false)
  | .surveyArmReplace tag zone f => some (0x07, tag, .surveyArm zone f true)
  | .surveyCancel tag zone => some (0x08, tag, .surveyCancel zone)
  | .zoneDefine tag zone => some (0x09, tag, .zoneDefine zone)
  | .zoneStart tag zone => some (0x0A, tag, .zoneStart zone)
  | .zoneStop tag zone => some (0x0B, tag, .zoneStop zone)
  | .zoneUndefine tag zone => some (0x0C, tag, .zoneUndefine zone)
  | .zoneSetWindow tag zone f => some (0x0D, tag, .zoneSetWindow zone f)
  | .zoneSetAllowance tag zone properties perProperty users =>
    some (0x0E, tag, .zoneSetAllowance zone properties perProperty users)
  | .zoneSetTests tag zone f => some (0x0F, tag, .zoneSetTests zone f)
  | .disturb tag zone start stop => some (0x10, tag, .disturb zone start stop)
  | .meterDefine tag f => some (0x11, tag, .meterDefine f)
  | .meterRetire tag meterTag => some (0x12, tag, .meterRetire meterTag)
  | .meterCut tag meterTag time => some (0x13, tag, .meterCut meterTag time)
  | .meterStatus tag meterTag => some (0x14, tag, .meterStatus meterTag)
  | .meterExceptionsTag tag meterTag => some (0x15, tag, .exceptionsTag meterTag)
  | .meterExceptionsSweep tag index => some (0x15, tag, .exceptionsSweep index)
  | .readings tag base records => some (0x16, tag, .readings base records)
  | .channelSet tag channel f => some (0x17, tag, .channelSet channel f)
  | .channelSetRead tag channel => some (0x17, tag, .channelSet channel { enable := none, width := none, noise := none })
  | .dismiss tag zone absorb => some (0x18, tag, .dispose zone 0 absorb)
  | .confirm tag zone absorb => some (0x18, tag, .dispose zone 1 absorb)
  | .repaired tag zone absorb => some (0x18, tag, .dispose zone 2 absorb)
  | .rebaseline tag zone => some (0x19, tag, .rebaseline zone)
  | .baselineGet tag zone => some (0x1A, tag, .baselineGet zone)
  | .baselinePut tag zone baseline count cusum => some (0x1B, tag, .baselinePut zone baseline count cusum)
  | .resultGet tag zone selector => some (0x1C, tag, .resultGet zone selector)
  | .zoneStatus tag zone => some (0x1D, tag, .zoneStatus zone)
  | .rollcall tag first last mode => some (0x1E, tag, .rollcall first last mode)
  | .rollcallNext tag => some (0x1F, tag, .rollcallNext)
  | .rollcallStop tag => some (0x20, tag, .rollcallStop)
  | .profile tag zone descriptor => some (0x21, tag, .profile zone descriptor)
  | .powerOn _ _ => none
  | .resetAssert => none
  | .resetRelease _ => none
  | .tick => none
  | .pulseFallingEdge _ => none
  | .pulseRisingEdge _ _ => none
  | .charError _ _ => none
  | .tooLong _ => none
  | .timeout _ => none
  | .frame _ _ _ _ => none
  | .unknownKind _ _ => none
  | .transmissionEnd => none
  | .streamIntervalExpiry => none
  | .holdAssert => none
  | .holdDeassert => none
  | .retireTaken => none
  | .cutTaken => none
  | .channelSetTaken => none
  | .takeReading => none
  | .chainDecision => none
  | .placement _ _ => none
  | .assessorTake => none
  | .assessmentCompletion => none
  | .sync => none

/-- The rows that act while RESET is held low: power, RESET itself, HOLD and the pulse lines. -/
def Instr.actsInReset : Instr → Bool
  | .powerOn _ _ => true
  | .resetAssert => true
  | .resetRelease _ => true
  | .pulseFallingEdge _ => true
  | .pulseRisingEdge _ _ => true
  | .holdAssert => true
  | .holdDeassert => true
  | _ => false

/-! ### What step 1 to step 3 of R2 refuse -/

/-- Outside a span of numbers. -/
def Outside (lo hi n : Nat) : Prop := n < lo ∨ hi < n

/-- A field that is present and outside a span of numbers. -/
def OutsideOpt (lo hi : Nat) (n : Option Nat) : Prop := ∃ v, n = some v ∧ Outside lo hi v

/-- A field of the request is outside its own range, or holds a code the tables do not name: step 1 of R2, with the
ranges of R1, R7 to R12, R14, R16, R21, R30, R31, R37, R47, R68, R121, R128, R135, R138, R141, R143 and R161. -/
def Request.outOfRange : Request → Prop
  | .identify => False
  | .systemSet f =>
    (∃ v, f.slotLength = some v ∧ v ≠ 5 ∧ v ≠ 10 ∧ v ≠ 15 ∧ v ≠ 30) ∨ OutsideOpt 0 2048 f.reserve ∨ OutsideOpt 0 1 f.noticeMode ∨
      OutsideOpt 0 255 f.interval
  | .poolStatus => False
  | .flush => False
  | .ack entry flags => 256 < entry ∨ (entry = 0 ∧ (flags % 16 ≠ 0 ∨ 64 ≤ flags)) ∨ (entry ≠ 0 ∧ 16 ≤ flags)
  | .clockSet time weekday => OutsideOpt 0 4294967295 time ∨ OutsideOpt 0 6 weekday
  | .surveyArm zone f _ => Outside 1 256 zone ∨ Outside 0 4294967295 f.start ∨ Outside 2 48 f.slots ∨ Outside 1 8 f.runLength
  | .surveyCancel zone => Outside 1 256 zone
  | .zoneDefine zone => Outside 1 256 zone
  | .zoneStart zone => Outside 1 256 zone
  | .zoneStop zone => Outside 1 256 zone
  | .zoneUndefine zone => Outside 1 256 zone
  | .zoneSetWindow zone f =>
    Outside 1 256 zone ∨ Outside 0 1439 f.start ∨ Outside 2 48 f.slots ∨ OutsideOpt 1 8 f.runLength ∨ OutsideOpt 0 2160 f.delay
  | .zoneSetAllowance zone properties perProperty users =>
    Outside 1 256 zone ∨ 65535 < properties ∨ 255 < perProperty ∨ 8 < users.length ∨
      ∃ u ∈ users, 4294967295 < u.tag ∨ Outside 1 65535 u.allowance ∨ OutsideOpt 1 127 u.weekdays ∨ OutsideOpt 0 49710 u.validUntil
  | .zoneSetTests zone f =>
    Outside 1 256 zone ∨ Outside 3 30 f.learn ∨ Outside 1 6 f.weight ∨ Outside 1 2147483647 f.burst ∨ Outside 1 7 f.persist ∨
      Outside 0 2147483647 f.slack ∨ Outside 1 2147483647 f.limit ∨ Outside 0 10080 f.settleLength
  | .disturb zone start stop => Outside 1 256 zone ∨ 4294967295 < start ∨ 4294967295 < stop
  | .meterDefine f =>
    4294967295 < f.tag ∨ 2 < f.kind ∨ 256 < f.upstream ∨ 256 < f.downstream ∨ 7 < f.modulus ∨ 4 < f.scale ∨
      Outside 1 2147483647 f.maxRate ∨ OutsideOpt 60 86400 f.maxGap ∨ OutsideOpt 0 7 f.channel ∨
      (f.kind = 2 ∧ (f.channel = none ∨ f.modulus ≠ 7)) ∨ (f.kind ≠ 2 ∧ f.channel ≠ none) ∨ f.upstream = f.downstream
  | .meterRetire _ => False
  | .meterCut _ time => 4294967295 < time
  | .meterStatus _ => False
  | .exceptionsTag _ => False
  | .exceptionsSweep index => 1023 < index
  | .readings _ records => Outside 1 16 records.length
  | .channelSet channel f =>
    7 < channel ∨ OutsideOpt 0 1 f.enable ∨ OutsideOpt 1 255 f.width ∨ OutsideOpt 0 255 f.noise ∨
      ¬ ((f.enable = none ∧ f.width = none ∧ f.noise = none) ∨ (f.enable ≠ none ∧ f.width ≠ none ∧ f.noise ≠ none))
  | .dispose zone disposition _ => Outside 1 256 zone ∨ 2 < disposition
  | .rebaseline zone => Outside 1 256 zone
  | .baselineGet zone => Outside 1 256 zone
  | .baselinePut zone baseline count cusum =>
    Outside 1 256 zone ∨ baseline < -2147483647 ∨ 2147483647 < baseline ∨ 30 < count ∨ 2147483647 < cusum
  | .resultGet zone selector => Outside 1 256 zone ∨ 2 < selector
  | .zoneStatus zone => Outside 1 256 zone
  | .rollcall first last mode => Outside 1 256 first ∨ Outside 1 256 last ∨ 1 < mode
  | .rollcallNext => False
  | .rollcallStop => False
  | .profile zone descriptor => Outside 1 256 zone ∨ 2 < descriptor
  | .unknown => False
  | .badLength => False
  | .badValue => True

/-- The zone that a request other than ZONE DEFINE names to act on: it gives NO_SUCH where it is UNDEFINED (R2 step 3). -/
def Request.zoneActedOn : Request → Option Nat
  | .surveyArm zone _ _ => some zone
  | .surveyCancel zone => some zone
  | .zoneStart zone => some zone
  | .zoneStop zone => some zone
  | .zoneUndefine zone => some zone
  | .zoneSetWindow zone _ => some zone
  | .zoneSetAllowance zone _ _ _ => some zone
  | .zoneSetTests zone _ => some zone
  | .disturb zone _ _ => some zone
  | .dispose zone _ _ => some zone
  | .rebaseline zone => some zone
  | .baselineGet zone => some zone
  | .baselinePut zone _ _ _ => some zone
  | .resultGet zone _ => some zone
  | .zoneStatus zone => some zone
  | .profile zone _ => some zone
  | _ => none

/-- The requests that need the part in RUN (R2 step 2, R4, R31). -/
def Request.needsRun : Request → Bool
  | .zoneStart _ => true
  | .surveyArm _ _ _ => true
  | _ => false

/-- The body length of each KIND whose length is fixed (R152, R159). -/
def bodyLengths : List (Nat × Nat) :=
  [(0x01, 0), (0x02, 9), (0x03, 0), (0x04, 0), (0x05, 3), (0x06, 7), (0x07, 9), (0x08, 2), (0x09, 2), (0x0A, 2), (0x0B, 2), (0x0C, 2),
   (0x0D, 10), (0x0F, 19), (0x10, 10), (0x11, 22), (0x12, 4), (0x13, 8), (0x14, 4), (0x15, 7), (0x17, 7)] ++
  [(0x18, 4), (0x19, 2), (0x1A, 2), (0x1B, 11), (0x1C, 3), (0x1D, 2), (0x1E, 5), (0x1F, 0), (0x20, 0), (0x21, 3)]

/-- Where a presence byte or a mark stands in the body of each of those KINDs (R159, R163); the form byte of METER
EXCEPTIONS, whose codes are 0 and 1 too, among them. -/
def markOffsets : List (Nat × List Nat) :=
  [(0x02, [0, 2, 5, 7]), (0x06, [0, 5]), (0x07, [8]), (0x0D, [5, 7]), (0x11, [15, 20]), (0x15, [0]), (0x17, [1, 3, 5]), (0x18, [3])]

end Sys2Proof

namespace Sys2Proof.Machine

/-! ### A request received, executed and answered (R151, R152) -/

/-- The part takes the next good frame into its head place: RESET is not low, both places are free (R151). -/
def State.ready (s : State) : Prop := s.link.resetLow = false ∧ s.link.head = none ∧ s.link.second = none

/-- The state in which a request just received is executed: it stands in the head place, its reply not made,
RXD is high and the frame receiver hunts. -/
def State.executing (s : State) (h : Held) : State :=
  { s with link := { s.link with line := .idle, rx := .hunting, head := some { held := h, reply := none } } }

/-- The state after a request's execution: its reply with this status and these fields offered in the head
place, and then what the arbiter starts (R152, R154). `starts`: the end of the reply starts a stream (R137). -/
def State.answer (s : State) (h : Held) (status : Status) (fields : List Byte) (starts : Bool) : State :=
  { s with link := s.link.reply h status fields starts }.afterwards

/-- The reply a frame in transmission or the head place holds: KIND, TAG and BODY. -/
def State.gives (s : State) (kind tag : Byte) (body : List Byte) : Prop :=
  (∃ starts, s.link.sending = some { frame := { kind := kind, tag := tag, body := body }, source := .reply starts }) ∨
    ∃ h r, s.link.head = some { held := h, reply := some r } ∧ h.tag = tag ∧ r.kind = kind ∧ r.body = body

/-- Two states agree in every block but the link, the notice queue with its blocked marks, and the stream: what
starting one frame may change (R134, R137, R154). -/
structure SameBlocks (s t : State) : Prop where
  zone : ∀ z, { t.zone z with blocked := false } = { s.zone z with blocked := false }
  meters : t.meters = s.meters
  clock : t.clock = s.clock
  settings : t.settings = s.settings
  channels : t.channels = s.channels
  intake : t.intake = s.intake
  chain : t.chain = s.chain
  assess : t.assess = s.assess
  meterFlag : t.notices.meter = s.notices.meter
  poolFlag : t.notices.pool = s.notices.pool
  pending : t.pending = s.pending

/-! ### The form of the tables -/

/-- The tables of zones, meters and channels are in canonical form (log 11). -/
def State.canonical (s : State) : Prop :=
  Table.wf (some Zone.initial) s.zones = true ∧ Table.wf (none : Option Meter) s.meters = true ∧
    Table.wf (some Channel.initial) s.channels = true

/-! ### What an opening leaves (R61, R75 to R78, R85) -/

/-- The good segments in the chain of a meter, oldest first (R59, R61). -/
def State.goodSegments (s : State) (i : Nat) : List Segment :=
  match s.meter i with
  | none => []
  | some m => ((m.chain.zip m.chain.tail).map fun p => m.segment p.1 p.2).filter fun g => g.bad = none

/-- What a required meter's good segments put into the slot that spans [a, b): volume and covered seconds (R61, R78). -/
def State.placed (s : State) (a b i : Nat) : Int × Nat :=
  let gs := (s.goodSegments i).filter fun g => g.overlaps a b
  ((gs.map fun g => g.volumeIn a b).sum, (gs.map fun g => g.coverageIn a b).sum)

/-- The state `t` that the opening of a planned night `n` in a descriptor leaves: one record `x`, OPEN, with the zone's
boundary as its required set; DISTURBED where its window overlaps the settle interval (R85); each slot the sums of the
placements the opening makes (R61, R78); not to be reached by an application in flight (R51); nothing else changed. -/
def State.Opens (s : State) (r : NightRef) (n : Night) (t : State) : Prop :=
  ∃ x : Night,
    t.night r = some x ∧ (∀ q, q ≠ r → t.night q = s.night q) ∧ t = { s.setNight r (some x) with chain := t.chain } ∧
    (∀ a, s.chain = .applying a → t.chain = .applying { a with reached := r :: a.reached } ∧
      r ∉ t.unreached { a with reached := r :: a.reached }) ∧
    ((∀ a, s.chain ≠ .applying a) → t.chain = s.chain) ∧
    { x with quality := n.quality, slots := n.slots } = { n with state := .opened, required := s.boundary r.zone } ∧
    (let disturbed : Prop := ∃ e p, s.entry r.zone = some e ∧ e.settle = some p ∧ n.start < p.stop ∧
       p.start < n.start + n.slotCount * (s.settings.slotLength * 60)
     (disturbed → n.quality = .clean → x.quality = .disturbed) ∧ (¬ disturbed ∨ n.quality ≠ .clean → x.quality = n.quality)) ∧
    x.slots.length = n.slotCount ∧
    (s.canonical → ∀ k y, x.slots[k]? = some y →
      let a := n.start + k * (s.settings.slotLength * 60)
      let b := n.start + (k + 1) * (s.settings.slotLength * 60)
      y.inflow = (((s.boundary r.zone).filter fun q => q.role = .inflow).map fun q => (s.placed a b q.meter).1).sum ∧
      y.outflow = (((s.boundary r.zone).filter fun q => q.role = .outflow).map fun q => (s.placed a b q.meter).1).sum ∧
      y.covered = (s.boundary r.zone).map fun q => (s.placed a b q.meter).2)

/-! ### A clock advance as the acts it takes (R23) -/

/-- A run of an advance from `t0` to `t1`, with `b` the boundary announced: from a state, with each zone's last regular
window start taken (or `t0`) and the channels that have still to act, some act that may come next is taken, whichever the world
chooses, until none is left. -/
inductive AdvanceRun (t0 t1 b : Nat) : List (Nat × Nat) → List Nat → State → State → Prop
  | done (zones : List (Nat × Nat)) (channels : List Nat) (s : State) :
      s.nextActs t0 t1 zones channels = [] → AdvanceRun t0 t1 b zones channels s s
  | act (zones : List (Nat × Nat)) (channels : List Nat) (s t : State) (a : Act) (world : List Nat) (choices : Nat) :
      a ∈ s.nextActs t0 t1 zones channels →
      AdvanceRun t0 t1 b (advanceCursors a zones) (remainingChannels a channels)
        (State.act { s with world := world, choices := choices } t1 b a) t →
      AdvanceRun t0 t1 b zones channels s t

/-! ### Invariants -/

/-- The reject queue holds at most four (R153). -/
def State.rejectsBounded (s : State) : Prop := s.link.rejects.length ≤ 4

/-- Every chain is strictly increasing in timestamp and holds at most 8 readings (R50). -/
def State.chainsOrdered (s : State) : Prop :=
  ∀ p ∈ s.meters, p.2.chain.Pairwise (fun a b => a.time < b.time) ∧ p.2.chain.length ≤ 8

/-- At most 56 host readings and one reading of each channel wait, in order of issue, all issued already (R35,
R36). -/
def State.intakeBounded (s : State) : Prop :=
  (s.intake.queue.filter fun w => w.origin = .host).length ≤ 56 ∧
    (∀ c, (s.intake.queue.filter fun w => w.origin = .channel c).length ≤ 1) ∧
    s.intake.queue.Pairwise (fun a b => a.issue < b.issue) ∧ ∀ w ∈ s.intake.queue, w.issue < s.intake.next

/-- The notice queue never holds the same entry twice (R132). -/
def State.noticesDistinct (s : State) : Prop := s.notices.queue.Nodup

/-- A waiting result is present only while the verdict state is ALARM (R110). -/
def State.waitingOnlyInAlarm (s : State) : Prop :=
  ∀ p ∈ s.zones, p.2.verdict.waiting.isSome = true → p.2.verdict.state = .alarm

/-- Nights hold no more slot records than the pool has (R74). -/
def State.poolBounded (s : State) : Prop := s.regularHeld + s.surveyHeld ≤ 8192

/-- Regular nights hold no more slot records than the pool less the survey reserve, and none in COLD (R75, R30). -/
def State.reserveKept (s : State) : Prop :=
  s.regularHeld ≤ 8192 - s.settings.reserve ∧ (s.clock.running = false → s.regularHeld = 0)

/-- On a free line nothing is offered: what could start has started (R154). -/
def State.quiet (s : State) : Prop := s.link.free = true → s.offers = []

end Sys2Proof.Machine
end

