-- ==== Sys2Proof/Certificates/Slice0/Obligations.lean ====
section
/-! DEFINITION. The statements for the provers. A request row's statement says, in one equation, the state its
outcome is: the effect on the state in which the request is executed (`State.executing`), then its answer
(`State.answer`: the reply offered, and what the arbiter starts). `ReceiveBufferAndAnswers` and
`ArbiterWaitsForAFreeLine` say what an answer is and that it changes no block. -/

open Sys2Proof Sys2Proof.Machine

/-! ### Steps and resets -/

/-- A step takes the command at the front of the queue and runs it on the state with the queue's rest. -/
def Obligations.StepRunsFrontCommand : Prop :=
  ∀ (c : Instr) (rest : List Instr) (s : State), step { s with pending := c :: rest } = exec c { s with pending := rest }

/-- The values every block takes at a reset; and the state after reset meets every invariant stated here. Levels of pins and
straps in it are the model's: log 4, log 18. -/
def Obligations.ResetLeavesTheResetState : Prop :=
  (let s := State.reset
   s.clock = { time := 0, running := false, epoch := 0 } ∧
     s.settings = { slotLength := 15, reserve := 512, noticeMode := .grouped, interval := 0 } ∧
     (∀ z, s.entry z = none ∧ (s.zone z).night0 = none ∧ (s.zone z).night1 = none ∧ (s.zone z).night2 = none ∧
       (s.zone z).skip = none ∧ (s.zone z).flags = { result := false, verdict := false, skip := false, survey := false } ∧
       (s.zone z).blocked = false ∧
       (s.zone z).verdict = { baseline := 0, count := 0, cusum := 0, persistence := 0, state := .learning, last := none,
                              waiting := none, alarm := none, survey := none }) ∧
     (∀ i, s.meter i = none) ∧ (∀ tag, s.meterByTag tag = none) ∧ (∀ c, s.boundMeter c = none) ∧
     (∀ c, (s.channel c).enable = false ∧ (s.channel c).width = 10 ∧ (s.channel c).noiseLimit = 0 ∧ (s.channel c).count = 0 ∧
       (s.channel c).rejected = 0 ∧ s.reserved c = none) ∧
     s.intake = { queue := [], next := 1 } ∧ s.hostFree = 56 ∧ s.chain = .idle ∧
     s.assess = { queue := [], flight := none } ∧ s.freeSlots = 8192 ∧
     s.notices = { queue := [], meter := false, pool := false, blocked := false } ∧ s.attn = false ∧ s.stream = none ∧
     s.link.rx = .hunting ∧ s.link.head = none ∧ s.link.second = none ∧ s.link.rejects = [] ∧ s.link.sending = none ∧
     s.txdHigh = true ∧ s.offers = []) ∧
  (State.reset.chainsOrdered ∧ State.reset.intakeBounded ∧ State.reset.noticesDistinct ∧ State.reset.waitingOnlyInAlarm ∧
     State.reset.rejectsBounded ∧ State.reset.canonical ∧ State.reset.quiet ∧ State.reset.poolBounded ∧ State.reset.reserveKept)

/-- RESET_RELEASE, and POWER_ON with RESET high, sample the straps and put every block into its reset state;
POWER_ON with RESET low waits for the release with TXD high and ATTN deasserted.
The straps as operands, and what is kept of the levels of the lines, are the
model's: log 4, log 18. -/
def Obligations.ResetReleaseAndPowerOn : Prop :=
  ∀ (p : Straps) (s : State),
    (∃ t, exec (.resetRelease p) s = .next t ∧
      t.link.rate =
        (match p.rate1, p.rate0 with
          | false, false => .b9600
          | false, true => .b38400
          | true, false => .b115200
          | true, true => .b460800) ∧
      t.link.parity =
        (match p.par1, p.par0 with
          | false, false => .none
          | false, true => .even
          | true, false => .odd
          | true, true => .none) ∧
      t.link.resetLow = false ∧ t.link.rx = .hunting ∧ t.link.head = none ∧ t.link.second = none ∧ t.link.rejects = [] ∧
      t.link.sending = none ∧ t.link.hold = s.link.hold ∧ t.zones = [] ∧ t.meters = [] ∧
      t.clock = { time := 0, running := false, epoch := 0 } ∧
      t.settings = { slotLength := 15, reserve := 512, noticeMode := .grouped, interval := 0 } ∧
      (∀ c, (t.channel c).enable = false ∧ (t.channel c).width = 10 ∧ (t.channel c).noiseLimit = 0 ∧ (t.channel c).count = 0 ∧
        (t.channel c).rejected = 0) ∧
      t.intake = { queue := [], next := 1 } ∧ t.chain = .idle ∧ t.assess = { queue := [], flight := none } ∧
      t.notices = { queue := [], meter := false, pool := false, blocked := false } ∧ t.stream = none ∧ t.pending = s.pending) ∧
    exec (.powerOn false p) s = exec (.resetRelease p) s ∧
    ∃ t, exec (.powerOn true p) s = .next t ∧ t.link.resetLow = true ∧ t.link.sending = none ∧ t.txdHigh = true ∧ t.attn = false ∧
      t.zones = [] ∧ t.meters = [] ∧ t.clock = { time := 0, running := false, epoch := 0 } ∧ t.stream = none ∧
      t.pending = s.pending

/-- RESET_ASSERT cuts off the frame in transmission: TXD is high, ATTN deasserted, and nothing else changes. While RESET is
held low no command but those of the pins, of RESET and of power does anything; that the clock and the blocks stand
still as well is the model's: log 5. -/
def Obligations.ResetLowStopsThePart : Prop :=
  (∀ s : State, ∃ t, exec .resetAssert s = .next t ∧
     t = { s with link := { s.link with resetLow := true, sending := none } } ∧ t.txdHigh = true ∧ t.attn = false) ∧
  (∀ (c : Instr) (s : State), s.link.resetLow = true → c.actsInReset = false → exec c s = .next s)

/-! ### The link -/

/-- HOLD_ASSERT changes the level of HOLD alone; a frame in transmission goes on. HOLD_DEASSERT releases it, and the arbiter
starts the first of what is offered, if no frame is in transmission. The arbiter after any other step: nothing on a busy
or held line or where nothing is offered; a single offered frame starts; with several, one of them (which one is the
model's free choice: log 19). It changes no block where no request waits behind the head place. -/
def Obligations.ArbiterWaitsForAFreeLine : Prop :=
  (∀ s : State,
     exec .holdAssert s = .next { s with link := { s.link with hold := true } } ∧
     let u : State := { s with link := { s.link with hold := false } }
     (s.link.sending.isSome ∨ s.link.resetLow = true ∨ s.offers = [] → exec .holdDeassert s = .next u) ∧
     ∀ o rest, s.link.sending = none → s.link.resetLow = false → s.offers = o :: rest →
       exec .holdDeassert s = .next (u.startOffer o)) ∧
  (∀ s : State,
     (s.link.free = false ∨ s.offers = [] → s.afterwards = s) ∧
     (∀ o, s.link.free = true → s.offers = [o] → s.afterwards = s.startOffer o) ∧
     (s.link.free = true → s.offers ≠ [] →
       ∃ o ∈ s.offers, ∃ (world : List Nat) (choices : Nat),
         s.afterwards = State.startOffer { s with world := world, choices := choices } o) ∧
     (s.link.second = none → SameBlocks s s.afterwards))

/-- TRANSMISSION_END: with HOLD deasserted the next frame is the first offered of the reply and the REJECTs;
else the notice at the head of the queue; else the stream's frame; with HOLD asserted none starts. The reply
starting frees the head place and moves a waiting request up, which is executed there as a request row's is. `u` is the part with
its transmission ended. The stream's frame is built as the part stands: the end frame of a stream that ends, up to 8 summaries of a
ONCE roll call's defined zones or its end frame DONE, the slot records of a PROFILE downward, or its end frame DONE or GONE. A summary is
taken of a zone as it stands. -/
def Obligations.ArbiterPrecedence : Prop :=
  (∀ (s : State) (f : Sending), s.link.resetLow = false → s.link.sending = some f →
    let u := State.afterFrame { s with link := { s.link with sending := none } } f.source
    (s.link.hold = true → exec .transmissionEnd s = .next u) ∧
    (s.link.hold = false →
      (∀ h r, s.link.head = some { held := h, reply := some r } → (r.ahead = 0 ∨ s.link.rejects = []) →
        exec .transmissionEnd s =
          .next (State.promote (u.send { kind := r.kind, tag := h.tag, body := r.body } (.reply r.startsStream)))) ∧
      (∀ j rest, s.link.rejects = j :: rest →
        (∀ h r, s.link.head = some { held := h, reply := some r } → r.ahead ≠ 0) →
        ∃ t, exec .transmissionEnd s = .next t ∧
          t.link.sending = some { frame := { kind := 0xC0, tag := j.tag, body := [byte j.cause.code] }, source := .reject } ∧
          t.link.rejects = rest ∧ SameBlocks u t ∧ t.notices = u.notices ∧ t.stream = u.stream) ∧
      (∀ e rest, s.link.rejects = [] → s.link.replying = false → s.notices.queue = e :: rest →
        ∃ t, exec .transmissionEnd s = .next t ∧
          t.link.sending =
            some { frame := { kind := 0xC1, tag := 0, body := le 2 e ++ [byte (s.flagByte e)] }, source := .notice } ∧
          t.notices.queue = s.notices.queue.filter (· ≠ e) ∧
          t.blocked e = (if s.settings.noticeMode = .grouped then true else s.blocked e) ∧ SameBlocks u t ∧ t.stream = u.stream) ∧
      (s.link.rejects = [] → s.link.replying = false → s.notices.queue = [] →
        (∀ st, u.stream = some st → st.offers = true → exec .transmissionEnd s = .next u.startStream) ∧
        (u.stream.any Stream.offers = false → exec .transmissionEnd s = .next u)))) ∧
  ((∀ s : State,
      (s.link.second = none → s.promote = { s with link := { s.link with head := none } }) ∧
      ∀ h, s.link.second = some h → s.promote = State.serve { s with link := { s.link with second := none } } h) ∧
   ∀ (c : Instr) (kind tag : Byte) (r : Request) (s : State), c.requestOf = some (kind, tag, r) → s.ready →
     exec c s =
       .next (State.serve { s with link := { s.link with line := .idle, rx := .hunting } }
         { kind := kind, tag := tag, request := r }).afterwards) ∧
  ∀ (s : State) (st : Stream), s.stream = some st →
    let ends (cause : EndCause) (tail : List Byte) : State :=
      State.send { s with stream := none }
        { kind := 0xC3, tag := 0, body := [byte st.body.code] ++ le 2 st.seq ++ [byte cause.code] ++ le 2 st.sent ++ tail } .endFrame
    let sends (body : StreamBody) (count : Nat) (items : List Byte) : State :=
      State.send { s with stream := some { body := body, phase := .sending, seq := st.seq + 1, sent := st.sent + count } }
        { kind := 0xC2, tag := 0, body := [byte st.body.code] ++ le 2 st.seq ++ [byte count] ++ items } .streamFrame
    (∀ cause, st.phase = .ending cause → s.startStream = ends cause []) ∧
    ((∀ cause, st.phase ≠ .ending cause) →
      (∀ next left, st.body = .once next left → 1 ≤ next → next ≤ 256 →
        let zoneAt (k : Nat) : Nat := (next + k - 1) % 256 + 1
        let defined := (List.range left).filter fun k => (s.entry (zoneAt k)).isSome
        let looked : Nat := match defined[7]? with
          | none => left
          | some k => k + 1
        (defined = [] → s.startStream = ends .done []) ∧
        (defined ≠ [] →
          s.startStream = sends (.once (zoneAt looked) (left - looked)) (min 8 defined.length)
            ((defined.take 8).flatMap fun k => (s.zone (zoneAt k)).summary (zoneAt k)))) ∧
      ∀ r left held, st.body = .profile r left held →
        (held = false ∨ s.night r = none → s.startStream = ends .gone []) ∧
        ∀ n, held = true → s.night r = some n →
          (left = 0 → s.startStream = ends .done ([byte n.state.code] ++ le 2 n.lateCount)) ∧
          (left ≠ 0 →
            let count := min left (min 12 (246 / (10 + 2 * n.required.length)))
            s.startStream = sends (.profile r (left - count) true) count
              ((List.range count).flatMap fun k =>
                match n.slots[left - 1 - k]? with
                | none => []
                | some x =>
                  le 1 (left - 1 - k) ++ leSigned (max (-2147483648) (min x.inflow 2147483647)) ++
                    leSigned (max (-2147483648) (min x.outflow 2147483647)) ++
                    leBool (x.covered.all fun c => c = s.settings.slotLength * 60) ++ x.covered.flatMap fun c => le 2 (min c 65535)))) ∧
    ∀ z,
      let v := s.zone z
      v.summary z =
        le 2 z ++
          [match v.entry with
            | none => (0 : Byte)
            | some e => if e.active then 2 else 1] ++
          [byte v.verdict.state.code] ++ [byte ((if v.flags.result then 1 else 0) + (if v.flags.verdict then 2 else 0) + (if v.flags.skip then 4 else 0) +
            (if v.flags.survey then 8 else 0) + if v.verdict.last.isSome then 128 else 0)] ++
          leSigned v.verdict.baseline ++ [byte v.verdict.count] ++ leSigned ((v.verdict.last.map (·.nnf)).getD 0) ++
          le 2 ((v.verdict.last.map (·.day)).getD 0) ++ [byte (descriptorCode v.night0)] ++ [byte (descriptorCode v.night1)] ++
          [byte (descriptorCode v.night2)]

/-- The end of the reply that started a stream lets the stream offer its first frame; the end of a stream frame begins
the stream interval as it is then set, or with an interval of 0 offers the next frame (the model's: log 8); STREAM_INTERVAL_EXPIRY
lets a stream that waits its interval offer its next frame, and leaves any other as it is (the model's: log 3). -/
def Obligations.StreamStepsFollowTheirEvents : Prop :=
  (∀ (s : State) (f : Sending) (st : Stream), s.link.resetLow = false → s.link.hold = true → s.link.sending = some f →
     s.stream = some st →
     ∃ t, exec .transmissionEnd s = .next t ∧ t.link.sending = none ∧
       (f.source = .reply true → st.phase = .awaitReply → t.stream = some { st with phase := .offered }) ∧
       (f.source = .streamFrame → st.phase = .sending →
         t.stream = some { st with phase := if s.settings.interval = 0 then .offered else .interval s.settings.interval }) ∧
       (f.source = .reject ∨ f.source = .notice ∨ f.source = .endFrame → t.stream = some st)) ∧
  (∀ s : State, s.link.resetLow = false →
     (∀ st n, s.stream = some st → st.phase = .interval n →
       exec .streamIntervalExpiry s = .next (State.afterwards { s with stream := some { st with phase := .offered } })) ∧
     (s.stream = none ∨ (∃ st, s.stream = some st ∧ ∀ n, st.phase ≠ .interval n) →
       exec .streamIntervalExpiry s = .next s.afterwards))

/-- SYNC puts a hunting receiver into a frame; in a frame whose end it is not, and whose LEN is at most 250, it is taken
as data. FRAME from a hunting receiver, its CRC right, is handed to the receive buffer as the request its KIND and
BODY make. The other way: a character on TXD is a start bit, 8 data bits from the least significant, the parity bit where selected,
which makes the number of ones even or odd, and one stop bit (R147); a frame is SYNC, LEN, KIND, TAG, BODY and the CRC, low byte
first, its characters without gaps (R160), the CRC that of R149; TXD is high while no frame is in transmission, and during one its
levels are those of the frame being sent, with the parity and at the rate the link holds (R145), from the start bit of its first
character to the stop bit of its last. That a transmission's bit time is an operand of this view and no state is the model's: log 27.
That a request is executed in the step that receives it, and that a row of whole characters leaves RXD high, are the
model's: log 2, log 30. -/
def Obligations.GoodFramesAreReceived : Prop :=
  (∀ s : State, s.link.resetLow = false →
     (s.link.rx = .hunting → exec .sync s = .next (State.afterwards { s with link := { s.link with line := .idle, rx := .inFrame [] } })) ∧
     ∀ got, s.link.rx = .inFrame got → ((got ++ [0xA5]).getD 0 0).toNat ≤ 250 →
       got.length + 1 ≠ ((got ++ [0xA5]).getD 0 0).toNat + 5 →
       exec .sync s = .next (State.afterwards { s with link := { s.link with line := .idle, rx := .inFrame (got ++ [0xA5]) } })) ∧
  (∀ (kind tag : Byte) (body : List Byte) (s : State), s.link.rx = .hunting → body.length ≤ 250 →
     exec (.frame kind tag body (frameCrc kind tag body)) s = .next (s.request kind tag (parseRequest kind body))) ∧
  (∀ b : Byte,
     let data : List Bool := [b.getLsbD 0, b.getLsbD 1, b.getLsbD 2, b.getLsbD 3, b.getLsbD 4, b.getLsbD 5, b.getLsbD 6, b.getLsbD 7]
     Parity.none.charLine b = [false] ++ data ++ [true] ∧
     (∃ x, Parity.even.charLine b = [false] ++ data ++ [x] ++ [true] ∧ (data ++ [x]).count true % 2 = 0) ∧
     ∃ x, Parity.odd.charLine b = [false] ++ data ++ [x] ++ [true] ∧ (data ++ [x]).count true % 2 = 1) ∧
  (∀ (p : Parity) (f : Frame),
     let crc := crc16 (byte f.body.length :: f.kind :: f.tag :: f.body)
     f.bytes = 0xA5 :: byte f.body.length :: f.kind :: f.tag :: f.body ++ [byte crc.toNat, byte (crc.toNat / 256)] ∧
     f.line p = (f.bytes.map p.charLine).flatten ∧
     (f.line p).length = (f.body.length + 6) * (if p = .none then 10 else 11)) ∧
  (crc16 [] = 0xFFFF ∧
   (∀ (bytes : List Byte) (b : Byte),
     crc16 (bytes ++ [b]) =
       ([b.getLsbD 7, b.getLsbD 6, b.getLsbD 5, b.getLsbD 4, b.getLsbD 3, b.getLsbD 2, b.getLsbD 1, b.getLsbD 0].foldl
         (fun (reg : BitVec 16) bit => if reg.getLsbD 15 = bit then reg <<< 1 else (reg <<< 1) ^^^ 0x1021) (crc16 bytes))) ∧
   crc16 [0x31, 0x32, 0x33, 0x34, 0x35, 0x36, 0x37, 0x38, 0x39] = 0x29B1) ∧
  ∀ s : State,
    (s.txdHigh = true ↔ s.link.sending = none) ∧
    (s.link.sending = none → ∀ k, s.txd k = true) ∧
    (∀ x, s.link.sending = some x →
      let width := if s.link.parity = .none then 10 else 11
      (∀ c j b v, x.frame.bytes[c]? = some b → (s.link.parity.charLine b)[j]? = some v → s.txd (c * width + j) = v) ∧
      s.txd 0 = false ∧ s.txd ((x.frame.body.length + 6) * width - 1) = true ∧
      ∀ k, (x.frame.body.length + 6) * width ≤ k → s.txd k = true) ∧
    ∀ micros,
      let baud := match s.link.rate with
        | .b9600 => 9600
        | .b38400 => 38400
        | .b115200 => 115200
        | .b460800 => 460800
      s.txdAfter micros = s.txd (micros * baud / 1000000)

/-- A frame whose CRC does not match, a damaged character, a silence and a LEN above 250 abandon the frame in reception
with a REJECT of their cause and of the TAG received so far, or 0; while hunting a damaged character and a silence do
nothing. A character is taken from the levels of RXD, bit time by bit time: a right one delivers its byte; after one with a low
stop bit the receiver waits for the line to return high, so a break gives one error. `u` is the part after what came before. The
reject queue takes a REJECT at its tail while it holds fewer than four, and none when it holds four.
That CHAR_ERROR and TIMEOUT first take what came since the last event, that TOO_LONG and FRAME take their own SYNC first, and that a
row of whole characters finds RXD high, are the model's: log 30; what a damaged character is, log 21. -/
def Obligations.DamagedFramesBecomeRejects : Prop :=
  (∀ (s : State), s.link.resetLow = false →
     let q : State := { s with link := { s.link with line := .idle } }
     (∀ (kind tag : Byte) (body : List Byte) (crc : BitVec 16), s.link.rx = .hunting → body.length ≤ 250 →
       crc ≠ frameCrc kind tag body → exec (.frame kind tag body crc) s = .next (q.addReject .check tag).afterwards) ∧
     (∀ (len : Byte), s.link.rx = .hunting → 250 < len.toNat →
       exec (.tooLong len) s = .next (q.addReject .tooLong 0).afterwards) ∧
     (∀ (received : List Byte) (levels : List Bool) (c : Character),
       let u := (if received = [] then s else q.receiveBytes received).receiveLevels levels
       let line : LineReceiver := if c.stopBit then .idle else .awaitHigh
       let v : State := { u with link := { u.link with line := line } }
       u.link.line = .idle →
       (u.link.parity.accepts c = true →
         exec (.charError received (levels ++ u.link.parity.levels c)) s = .next (u.receiveByte c.data).afterwards) ∧
       (u.link.parity.accepts c = false →
         (u.link.rx = .hunting → exec (.charError received (levels ++ u.link.parity.levels c)) s = .next v.afterwards) ∧
         ∀ got, u.link.rx = .inFrame got →
           exec (.charError received (levels ++ u.link.parity.levels c)) s =
             .next (State.afterwards ({ v with link := { v.link with rx := .hunting } }.addReject .charError (got.getD 2 0))))) ∧
     ∀ (received : List Byte),
       let u := q.receiveBytes received
       (u.link.rx = .hunting → exec (.timeout received) s = .next u.afterwards) ∧
       ∀ got, u.link.rx = .inFrame got →
         exec (.timeout received) s =
           .next (State.afterwards ({ u with link := { u.link with rx := .hunting } }.addReject .timeout (got.getD 2 0)))) ∧
  (∀ s : State,
     (s.link.line = .idle → s.receiveLevel true = s) ∧
     (s.link.line = .awaitHigh →
       s.receiveLevel false = s ∧ s.receiveLevel true = { s with link := { s.link with line := .idle } })) ∧
  (∀ (s : State) (cause : RejectCause) (tag : Byte),
     (s.link.rejects.length < 4 →
       s.addReject cause tag = { s with link := { s.link with rejects := s.link.rejects ++ [{ cause := cause, tag := tag }] } }) ∧
     (4 ≤ s.link.rejects.length → s.addReject cause tag = s))

/-- A KIND that names no request is answered with KIND 0x80 and status UNKNOWN_KIND; a request row with a field outside its
range with BAD_VALUE (step 1 of R2), one that needs RUN in COLD with NOT_READY (step 2), one that acts on an UNDEFINED zone with
NO_SUCH (step 3); a frame with a body of the wrong length with BAD_LENGTH, and one with a byte R163 refuses with BAD_VALUE; no block
changes. A READINGS or ZONE SET ALLOWANCE count outside its range gives BAD_VALUE before the length is judged.
When a body is judged, and that a body too short to hold its count byte has the wrong length, are the model's: log 29, log 34. So is
the place of NO_SUCH before BUSY for PROFILE with a stream in flight, log 14, and before the relation of DISTURB's
fields, log 15; and that CLOCK SET with an epoch weekday above 6 is BAD_VALUE before R21 and R22 are looked at, log 35. -/
def Obligations.WrongRequestsAreAnswered : Prop :=
  (∀ (kind tag : Byte) (s : State), s.ready → (kind.toNat = 0 ∨ 0x21 < kind.toNat) →
     let h : Held := { kind := kind, tag := tag, request := .unknown }
     exec (.unknownKind kind tag) s = .next ((s.executing h).answer h .unknownKind [] false) ∧
       replyKind kind .unknownKind = 0x80 ∧ replyBody .unknownKind [] = [3]) ∧
  ((∀ r : Request, requestInRange r = true ↔ ¬ r.outOfRange) ∧
   ∀ (c : Instr) (kind tag : Byte) (r : Request) (s : State), c.requestOf = some (kind, tag, r) → s.ready →
     let h : Held := { kind := kind, tag := tag, request := r }
     (r.outOfRange → exec c s = .next ((s.executing h).answer h .badValue [] false)) ∧
     (¬ r.outOfRange →
       (r.needsRun = true → s.clock.running = false → exec c s = .next ((s.executing h).answer h .notReady [] false)) ∧
       ∀ z, r.zoneActedOn = some z → s.entry z = none → (r.needsRun = true → s.clock.running = true) →
         exec c s = .next ((s.executing h).answer h .noSuch [] false))) ∧
  (∀ (kind tag : Byte) (body : List Byte) (s : State), s.ready → s.link.rx = .hunting → body.length ≤ 250 →
     let long : Held := { kind := kind, tag := tag, request := .badLength }
     let bad : Held := { kind := kind, tag := tag, request := .badValue }
     let wrongLength : Prop := exec (.frame kind tag body (frameCrc kind tag body)) s =
       .next ((s.executing long).answer long .badLength [] false)
     let wrongValue : Prop := exec (.frame kind tag body (frameCrc kind tag body)) s =
       .next ((s.executing bad).answer bad .badValue [] false)
     (∀ n, (kind.toNat, n) ∈ bodyLengths →
       (body.length ≠ n → wrongLength) ∧
       (body.length = n → ∀ offsets, (kind.toNat, offsets) ∈ markOffsets → ∀ o ∈ offsets, 1 < (body.getD o 0).toNat → wrongValue)) ∧
     (kind = 0x0E →
       let count := (body.getD 5 0).toNat
       (body.length < 6 → wrongLength) ∧
       (6 ≤ body.length → 8 < count → wrongValue) ∧
       (6 ≤ body.length → count ≤ 8 → body.length ≠ 6 + 11 * count → wrongLength) ∧
       (body.length = 6 + 11 * count → count ≤ 8 →
         (∃ k, k < count ∧ (1 < (body.getD (12 + 11 * k) 0).toNat ∨ 1 < (body.getD (14 + 11 * k) 0).toNat)) → wrongValue)) ∧
     (kind = 0x16 →
       let count := (body.getD 0 0).toNat
       (body = [] → wrongLength) ∧
       (body ≠ [] → (count = 0 ∨ 16 < count) → wrongValue) ∧
       (body ≠ [] → 1 ≤ count → count ≤ 16 → body.length ≠ 5 + 15 * count → wrongLength)))

/-- The receive buffer: a request row whose frame finds the head place taken waits in the second place, and with both taken
it is not taken but answered with a REJECT of cause OVERRUN. An answer changes no block, and the host gets it: the reply,
its KIND the request's plus 0x80, its TAG the request's, its body the status and with OK the fields, is in transmission or
waits in the head place. -/
def Obligations.ReceiveBufferAndAnswers : Prop :=
  (∀ (c : Instr) (kind tag : Byte) (r : Request) (s : State), c.requestOf = some (kind, tag, r) → s.link.resetLow = false →
     let u : State := { s with link := { s.link with line := .idle, rx := .hunting } }
     (s.link.head.isSome → s.link.second = none →
       exec c s =
         .next (State.afterwards { u with link := { u.link with second := some { kind := kind, tag := tag, request := r } } })) ∧
     (s.link.head.isSome → s.link.second.isSome → exec c s = .next (u.addReject .overrun tag).afterwards)) ∧
  (∀ (s : State) (h : Held) (status : Status) (fields : List Byte) (starts : Bool), s.link.second = none →
     SameBlocks s (s.answer h status fields starts) ∧
     (status ≠ .unknownKind → status ≠ .ok → (s.answer h status fields starts).gives (h.kind + 0x80) h.tag [byte status.code]) ∧
     (status = .ok → (s.answer h status fields starts).gives (h.kind + 0x80) h.tag (0 :: fields)) ∧
     (status = .unknownKind → (s.answer h status fields starts).gives 0x80 h.tag [3]))

/-- Reading back a request's body: for every request a host can send, its lists within their counts, the KIND and
BODY it sends are read as that request, every field at every value its bytes admit. -/
def Obligations.BodiesReadBack : Prop :=
  ∀ r : Request, r.wellFormed = true →
    (∀ z a b us, r = .zoneSetAllowance z a b us → us.length ≤ 8) →
    (∀ base rs, r = .readings base rs → 1 ≤ rs.length) →
    parseRequest r.kind r.body = r

/-- The whole path of a request: the frame a host sends for the request of a row, every list within its count,
acts on a hunting receiver as the row does. That a request row is the reception of its frame is the model's: log 2. -/
def Obligations.FrameOfARequestIsItsRow : Prop :=
  ∀ (c : Instr) (kind tag : Byte) (r : Request) (s : State), c.requestOf = some (kind, tag, r) → r.wellFormed = true →
    (∀ z a b us, r = .zoneSetAllowance z a b us → us.length ≤ 8) →
    (∀ base rs, r = .readings base rs → 1 ≤ rs.length) →
    s.link.rx = .hunting →
    exec (.frame kind tag r.body (frameCrc kind tag r.body)) s = exec c s

/-! ### The part as a whole -/

/-- IDENTIFY reports the part's figures, POOL STATUS the pool's five figures, and both change nothing; free, regular and
survey records sum to 8192 while nights hold no more than the pool has.
The widths of IDENTIFY's figures are the model's: log 12. -/
def Obligations.IdentifyAndPoolStatusReport : Prop :=
  (∀ (tag : Byte) (s : State), s.ready →
     let h : Held := { kind := 0x01, tag := tag, request := .identify }
     exec (.identify tag) s =
       .next ((s.executing h).answer h .ok
         [7, 0x00, 0x01, 1, if s.clock.running then 1 else 0, byte s.link.rate.code, byte s.link.parity.code, 0x00, 0x01, 0x00, 0x04,
          16, 8, 8, 56, 16, 0x00, 0x20, 3, 0x00, 0x03, 250] false)) ∧
  (∀ (tag : Byte) (s : State), s.ready →
     let h : Held := { kind := 0x03, tag := tag, request := .poolStatus }
     exec (.poolStatus tag) s =
         .next ((s.executing h).answer h .ok
           (le 2 s.freeSlots ++ le 2 s.regularHeld ++ le 2 s.surveyHeld ++ le 2 s.settings.reserve ++ le 2 (8192 - s.settings.reserve))
           false) ∧
       (s.poolBounded → s.freeSlots + s.regularHeld + s.surveyHeld = 8192))

/-- SYSTEM SET: in COLD each present field is set and each absent one kept; a different slot length takes the
window of every zone and keeps K and D; a change to SINGLE unblocks every entry. In RUN only the stream interval
may be carried; anything else is refused with WRONG_STATE, the interval with it. -/
def Obligations.SystemSetSetsWhatItCarries : Prop :=
  ∀ (tag : Byte) (f : SystemSpec) (s : State), s.ready → systemInRange f = true → s.canonical →
    let h : Held := { kind := 0x02, tag := tag, request := .systemSet f }
    let mode : NoticeMode := if f.noticeMode = some 0 then .grouped else if f.noticeMode = some 1 then .single else s.settings.noticeMode
    let now : Settings := { slotLength := f.slotLength.getD s.settings.slotLength, reserve := f.reserve.getD s.settings.reserve,
                            noticeMode := mode, interval := f.interval.getD s.settings.interval }
    ((s.clock.running = false ∨ (f.slotLength = none ∧ f.reserve = none ∧ f.noticeMode = none)) →
      ∃ u : State, exec (.systemSet tag f) s =
          .next (u.answer h .ok (le 1 now.slotLength ++ le 2 now.reserve ++ le 1 now.noticeMode.code ++ le 1 now.interval) false) ∧
        u.settings = now ∧
        (∀ z, u.zone z =
          { s.zone z with
            entry := (s.zone z).entry.map fun e =>
              if now.slotLength = s.settings.slotLength then e else { e with window := none },
            blocked := (s.zone z).blocked && !(s.settings.noticeMode = .grouped && mode = .single : Bool) }) ∧
        u.notices = { s.notices with blocked := s.notices.blocked && !(s.settings.noticeMode = .grouped && mode = .single : Bool) } ∧
        u.meters = s.meters ∧ u.clock = s.clock ∧ u.channels = s.channels ∧ u.intake = s.intake ∧ u.chain = s.chain ∧
        u.assess = s.assess ∧ u.stream = s.stream ∧ u.pending = s.pending ∧ u.link = (s.executing h).link) ∧
    (s.clock.running = true → (f.slotLength.isSome ∨ f.reserve.isSome ∨ f.noticeMode.isSome) →
      exec (.systemSet tag f) s = .next ((s.executing h).answer h .wrongState [] false))

/-- FLUSH, as one act: every night released, the intake and every chain emptied, the reading in hand and any
application and assessment abandoned, a STEP roll call ended, any other stream left with its end frame FLUSHED
to send; everything else kept, and its reply carries OK alone. A stream whose starting reply is not sent yet, and one
that already ends for another cause, end so too: the model's, log 16. -/
def Obligations.FlushEmptiesAndKeeps : Prop :=
  ∀ (tag : Byte) (s : State), s.ready → s.canonical →
    let h : Held := { kind := 0x04, tag := tag, request := .flush }
    ∃ u : State, exec (.flush tag) s = .next (u.answer h .ok [] false) ∧
      (∀ z, u.zone z = { s.zone z with night0 := none, night1 := none, night2 := none }) ∧
      (∀ i, u.meter i = (s.meter i).map fun m => { m with chain := [] }) ∧
      u.intake = { queue := [], next := s.intake.next } ∧ u.chain = .idle ∧ u.assess = { queue := [], flight := none } ∧
      u.freeSlots = 8192 ∧
      (s.stream = none → u.stream = none) ∧
      (∀ st next left, s.stream = some st → st.body = .step next left → u.stream = none) ∧
      (∀ st, s.stream = some st → (∀ next left, st.body ≠ .step next left) →
        ∃ st', u.stream = some st' ∧ st'.phase = .ending .flushed ∧ st'.seq = st.seq ∧ st'.sent = st.sent ∧
          st'.body = (match st.body with
            | .profile r left _ => .profile r left false
            | b => b)) ∧
      u.clock = s.clock ∧ u.settings = s.settings ∧ u.channels = s.channels ∧ u.notices = s.notices ∧ u.pending = s.pending ∧
      u.link = (s.executing h).link

/-- ACK clears the flags it names; an entry left with none leaves the queue and is unblocked, any other keeps its
place and its mark; the reply carries the entry, the flags left, queued and blocked. -/
def Obligations.AckClearsTheFlagsItNames : Prop :=
  ∀ (tag : Byte) (entry flags : Nat) (s : State), s.ready → ackInRange entry flags = true →
    let h : Held := { kind := 0x05, tag := tag, request := .ack entry flags }
    ∃ u : State, exec (.ack tag entry flags) s =
        .next (u.answer h .ok (le 2 entry ++ le 1 (u.flagByte entry) ++ leBool (u.queued entry) ++ leBool (u.blocked entry)) false) ∧
      (entry ≠ 0 → (u.zone entry).flags =
        { result := (s.zone entry).flags.result && !flags.testBit 0, verdict := (s.zone entry).flags.verdict && !flags.testBit 1,
          skip := (s.zone entry).flags.skip && !flags.testBit 2, survey := (s.zone entry).flags.survey && !flags.testBit 3 } ∧
        u.notices.meter = s.notices.meter ∧ u.notices.pool = s.notices.pool) ∧
      (entry = 0 → u.notices.meter = (s.notices.meter && !flags.testBit 4) ∧ u.notices.pool = (s.notices.pool && !flags.testBit 5)) ∧
      (u.flagByte entry = 0 → u.notices.queue = s.notices.queue.filter (· ≠ entry) ∧ u.blocked entry = false) ∧
      (u.flagByte entry ≠ 0 → u.notices.queue = s.notices.queue ∧ u.blocked entry = s.blocked entry) ∧
      (∀ z, z ≠ entry → u.zone z = s.zone z) ∧
      (∀ z, (u.zone z).entry = (s.zone z).entry ∧ (u.zone z).verdict = (s.zone z).verdict ∧ (u.zone z).night0 = (s.zone z).night0 ∧
        (u.zone z).night1 = (s.zone z).night1 ∧ (u.zone z).night2 = (s.zone z).night2 ∧ (u.zone z).skip = (s.zone z).skip) ∧
      u.meters = s.meters ∧ u.clock = s.clock ∧ u.settings = s.settings ∧ u.channels = s.channels ∧ u.intake = s.intake ∧
      u.chain = s.chain ∧ u.assess = s.assess ∧ u.stream = s.stream ∧ u.pending = s.pending ∧ u.link = (s.executing h).link

/-- R131 to R133: a zone's flag raised is set, and only its change from clear to set acts on the notice queue: the entry joins the
tail if it is not queued and, in GROUPED mode, not blocked. The system flags the same. Nothing else changes. -/
def Obligations.RaisedFlagsQueueTheEntry : Prop :=
  (∀ (s : State) (z : Nat) (f : ZoneFlag), z ≠ 0 →
    let t := s.raise z f
    ((s.zone z).flags.get f = true → t = s) ∧
    ((s.zone z).flags.get f = false →
      (t.zone z).flags.get f = true ∧ (∀ g, g ≠ f → (t.zone z).flags.get g = (s.zone z).flags.get g) ∧
      { t.zone z with flags := (s.zone z).flags } = s.zone z ∧ (∀ y, y ≠ z → t.zone y = s.zone y) ∧
      t.notices = { s.notices with
        queue :=
          if s.notices.queue.contains z || (s.settings.noticeMode = .grouped && (s.zone z).blocked : Bool) then s.notices.queue
          else s.notices.queue ++ [z] } ∧
      t = { s with zones := t.zones, notices := t.notices })) ∧
  ∀ s : State,
    let queue : List Nat :=
      if s.notices.queue.contains 0 || (s.settings.noticeMode = .grouped && s.notices.blocked : Bool) then s.notices.queue
      else s.notices.queue ++ [0]
    (s.notices.meter = true → s.raiseMeter = s) ∧ (s.notices.pool = true → s.raisePool = s) ∧
    (s.notices.meter = false → s.raiseMeter = { s with notices := { s.notices with meter := true, queue := queue } }) ∧
    (s.notices.pool = false → s.raisePool = { s with notices := { s.notices with pool := true, queue := queue } })

/-- R87: a skip recorded while the SKIP flag is clear starts the skip record afresh and sets the flag; while it is set the count
rises, stopping at 255; cause POOL sets the system flag POOL. R66: an exception against an empty record starts it and
sets METER; against a set record the count rises, stopping at 255. -/
def Obligations.SkipsAndExceptionsAreCounted : Prop :=
  (∀ (s : State) (z : Nat) (cause : SkipCause) (day : Nat), z ≠ 0 →
    let t := s.recordSkip z cause day
    (t.zone z).flags.skip = true ∧ (cause = .pool → t.notices.pool = true) ∧ (cause ≠ .pool → t.notices.pool = s.notices.pool) ∧
    ((s.zone z).flags.skip = false → (t.zone z).skip = some { cause := cause, day := day, count := 1 }) ∧
    ((s.zone z).flags.skip = true → ∀ r, (s.zone z).skip = some r →
      (t.zone z).skip = some { cause := r.cause, day := r.day, count := min (r.count + 1) 255 }) ∧
    { t.zone z with flags := (s.zone z).flags, skip := (s.zone z).skip } = s.zone z ∧ (∀ y, y ≠ z → t.zone y = s.zone y) ∧
    t = { s with zones := t.zones, notices := t.notices }) ∧
  ∀ (s : State) (i : Nat) (m : Meter) (code : ExceptionCode) (time : Nat), s.meter i = some m →
    (m.exceptions = none →
      s.recordException i code time =
        (s.putMeter i { m with exceptions := some { code := code, time := time, count := 1 } }).raiseMeter) ∧
    ∀ r, m.exceptions = some r →
      s.recordException i code time =
        s.putMeter i { m with exceptions := some { code := r.code, time := r.time, count := min (r.count + 1) 255 } }

/-- CLOCK SET in each of its forms, in COLD and in RUN: reading, the first setting, the advance to a later time,
and the refusals, after which nothing has changed. An epoch weekday above 6 is outside this statement: log 35. -/
def Obligations.ClockSetByItsForms : Prop :=
  ∀ (tag : Byte) (time weekday : Option Nat) (s : State), s.ready → requestInRange (.clockSet time weekday) = true →
    let h : Held := { kind := 0x06, tag := tag, request := .clockSet time weekday }
    let x := s.executing h
    let now : List Byte := leBool s.clock.running ++ le 4 s.clock.time ++ le 2 (s.clock.time / 86400) ++
      le 1 ((s.clock.time / 86400 + s.clock.epoch) % 7)
    (s.clock.running = false →
      (time = none → exec (.clockSet tag time weekday) s = .next (x.answer h .ok now false)) ∧
      (time.isSome → weekday = none → exec (.clockSet tag time weekday) s = .next (x.answer h .badValue [] false)) ∧
      ∀ t d, time = some t → weekday = some d →
        exec (.clockSet tag time weekday) s =
          .next (State.answer { x with clock := { time := t, running := true, epoch := d } } h .ok
            ([1] ++ le 4 t ++ le 2 (t / 86400) ++ le 1 ((t / 86400 + d) % 7)) false)) ∧
    (s.clock.running = true →
      ((∃ d, weekday = some d ∧ d ≠ s.clock.epoch) → exec (.clockSet tag time weekday) s = .next (x.answer h .badValue [] false)) ∧
      ((weekday = none ∨ weekday = some s.clock.epoch) →
        (time = none ∨ time = some s.clock.time → exec (.clockSet tag time weekday) s = .next (x.answer h .ok now false)) ∧
        ∀ t, time = some t →
          (t < s.clock.time → exec (.clockSet tag time weekday) s = .next (x.answer h .badValue [] false)) ∧
          (s.clock.time < t →
            exec (.clockSet tag time weekday) s =
              .next ((x.advance t).answer h .ok
                ([1] ++ le 4 t ++ le 2 (t / 86400) ++ le 1 ((t / 86400 + s.clock.epoch) % 7)) false))))

/-- TICK: in RUN below the last site time an advance of one second; in COLD, and at the last site time, the part stays as
it is. A clock advance sets the site time and keeps the set flag, the epoch weekday, the meters, the settings, the
link and every zone's entry and verdict record. In it every ACTIVE zone takes its instants in order of site time, and every enabled
channel with a bound meter acts at the last slot boundary crossed; enabled channels without one set their rejected count to 0. The
instants are the regular window starts, the start of an ARMED survey, the window end of an OPEN night and the deadline of a CLOSING
one (R23, R25 to R28, R33); a boundary reading supersedes one that waits, and carries its NOISY mark (R45, R46).
That acts of different zones and channels come in an order the world chooses is the model's: log 1. -/
def Obligations.TickAdvancesOneSecond : Prop :=
  (∀ (s : State) (t : Nat),
     (s.advance t).clock = { s.clock with time := t } ∧ (s.advance t).meters = s.meters ∧ (s.advance t).settings = s.settings ∧
       (s.advance t).link = s.link ∧ (s.advance t).pending = s.pending ∧
       ∀ z, (s.advance t).entry z = s.entry z ∧ ((s.advance t).zone z).verdict = (s.zone z).verdict) ∧
  (∀ s : State, s.link.resetLow = false →
     (s.clock.running = true → s.clock.time < 4294967295 → exec .tick s = .next (s.advance (s.clock.time + 1)).afterwards) ∧
     (s.clock.running = false ∨ 4294967295 ≤ s.clock.time → exec .tick s = .next s.afterwards)) ∧
  (∀ (s : State) (t1 : Nat), s.canonical →
     let L := s.settings.slotLength * 60
     let b := t1 / L * L
     let announced : List Nat :=
       if s.clock.time < b then [0, 1, 2, 3, 4, 5, 6, 7].filter fun c => (s.channel c).enable else []
     let start : State :=
       (announced.filter fun c => s.boundMeter c = none).foldl (fun x c => x.setChannel c { x.channel c with rejected := 0 })
         { s with clock := { s.clock with time := t1 } }
     (∀ z, z ∈ s.activeZones ↔ ∃ e, s.entry z = some e ∧ e.active = true) ∧ s.activeZones.Nodup ∧
     AdvanceRun s.clock.time t1 b (s.activeZones.map fun z => (z, s.clock.time))
       (announced.filter fun c => s.boundMeter c ≠ none) start (s.advance t1)) ∧
  (∀ (s : State) (t0 t1 : Nat) (zones : List (Nat × Nat)) (channels : List Nat) (a : Act),
     let taken (z cursor x : Nat) (i : Act) : Prop :=
       (∃ e win, s.entry z = some e ∧ e.window = some win ∧ x = nextStart win.start cursor ∧ x ≤ t1 ∧ i = .regularStart z x) ∨
       ∃ d n, d < 3 ∧ s.night { zone := z, desc := d } = some n ∧ t0 < x ∧ x ≤ t1 ∧
         ((n.state = .armed ∧ d = 2 ∧ x = n.start ∧ i = .surveyStart z) ∨
           (n.state = .opened ∧ x = n.windowEnd s.slotSeconds ∧ i = .windowEnd { zone := z, desc := d }) ∨
           (n.state = .closing ∧ x = n.deadline ∧ i = .deadline { zone := z, desc := d }))
     (a ∈ s.nextActs t0 t1 zones channels ↔
       (∃ c ∈ channels, a = .announce c) ∨
         ∃ p ∈ zones, ∃ x, taken p.1 p.2 x a ∧ ∀ y i, taken p.1 p.2 y i → x ≤ y) ∧
     (∀ z w, advanceCursors (.regularStart z w) zones = zones.map fun p => if p.1 = z then (z, w) else p) ∧
     ((∀ z w, a ≠ .regularStart z w) → advanceCursors a zones = zones) ∧
     (∀ c, remainingChannels (.announce c) channels = channels.filter (· ≠ c)) ∧
     ((∀ c, a ≠ .announce c) → remainingChannels a channels = channels)) ∧
  (∀ minute cursor : Nat, minute < 1440 →
     cursor < nextStart minute cursor ∧ nextStart minute cursor % 86400 = 60 * minute ∧ nextStart minute cursor ≤ cursor + 86400) ∧
  ∀ (s : State) (t1 b : Nat),
    (∀ z w, s.act t1 b (.regularStart z w) = (s.regularStart z w t1).quiesce) ∧
    (∀ z, s.act t1 b (.surveyStart z) = (s.surveyStart z t1).quiesce) ∧
    (∀ r, s.act t1 b (.windowEnd r) = (s.windowEnds r).quiesce) ∧
    (∀ r, s.act t1 b (.deadline r) = (s.deadlinePasses r).quiesce) ∧
    ∀ c i m, s.boundMeter c = some (i, m) →
      let v := s.channel c
      let noisy : Bool := (v.noiseLimit ≠ 0 ∧ v.noiseLimit < v.rejected : Bool) ||
        (match s.intake.queue.find? fun w => w.origin = .channel c with
          | none => false
          | some w => w.reading.noisy = some true)
      s.act t1 b (.announce c) =
        State.quiesce { s.setChannel c { v with rejected := 0 } with
          intake :=
            { queue := (s.intake.queue.filter fun w => w.origin ≠ .channel c) ++
                [{ issue := s.intake.next, meter := i,
                   reading := { time := b, forward := v.count, reverse := none, noisy := some noisy }, origin := .channel c }],
              next := s.intake.next + 1 } }

/-- R81, R82 and R41: a night that enters DRAINING takes the last outstanding reading's place as its drain mark, or with none
outstanding freezes at once: QUEUED, no mark, at the tail of the assessment queue. R28 and R80: at its window end an OPEN night
enters DRAINING where its close delay is 0 or it is complete, and else CLOSING; at its deadline a CLOSING one enters DRAINING.
What follows any act on nights or readings (`quiesce`) ends an application that has no night left to reach, and freezes each
draining night whose wait is over, once, at the tail of the assessment queue; every other night stays as it is, and so do
the meters, the clock, the settings, the channels, the intake, the notices, the stream, the link and of every zone all but its
nights. In which order nights freeze that do so together is the world's choice: log 1. A released night (R83, R89, R142): its descriptor
is free, no application remembers it, and a PROFILE that follows it is GONE from then on, even when a new night takes the same
descriptor; nothing else changes. -/
def Obligations.NightsDrainAndFreeze : Prop :=
  (∀ (s : State) (z d : Nat) (n : Night), d < 3 →
    let r : NightRef := { zone := z, desc := d }
    s.night r = some n →
    (s.outstanding = [] →
      s.enterDraining r =
        { s.setNight r (some { n with state := .queued, mark := none }) with
          assess := { s.assess with queue := s.assess.queue ++ [r] } }) ∧
    (s.outstanding ≠ [] →
      ∃ m, (∃ w ∈ s.outstanding, w.issue = m) ∧ (∀ w ∈ s.outstanding, w.issue ≤ m) ∧
        s.enterDraining r = s.setNight r (some { n with state := .draining, mark := some m })) ∧
    (let t := s.releaseNight r
     t.night r = none ∧ (∀ q, q ≠ r → t.night q = s.night q) ∧
     (∀ y, { t.zone y with night0 := none, night1 := none, night2 := none } =
       { s.zone y with night0 := none, night1 := none, night2 := none }) ∧
     (∀ a, s.chain = .applying a → t.chain = .applying { a with reached := a.reached.filter (· ≠ r) }) ∧
     ((∀ a, s.chain ≠ .applying a) → t.chain = s.chain) ∧
     (∀ st, s.stream = some st →
       (∀ left held, st.body = .profile r left held →
         t.stream = some { st with body := .profile r left false } ∧
         ((∀ cause, st.phase ≠ .ending cause) →
           ∀ (u : State) (x : Option Night), u = t ∨ u = t.setNight r x →
             u.startStream = State.send { u with stream := none }
               { kind := 0xC3, tag := 0, body := 1 :: le 2 st.seq ++ [2] ++ le 2 st.sent } .endFrame)) ∧
       ((∀ left held, st.body ≠ .profile r left held) → t.stream = some st)) ∧
     (s.stream = none → t.stream = none) ∧ t = { s with zones := t.zones, chain := t.chain, stream := t.stream }) ∧
    (let complete : Bool := n.slots.all fun x => x.covered.all fun c => c = s.settings.slotLength * 60
     (n.state ≠ .opened → s.windowEnds r = s) ∧
     (n.state = .opened →
       (n.deadline = n.start + n.slotCount * (s.settings.slotLength * 60) ∨ complete = true → s.windowEnds r = s.enterDraining r) ∧
       (n.deadline ≠ n.start + n.slotCount * (s.settings.slotLength * 60) → complete = false →
         s.windowEnds r = s.setNight r (some { n with state := .closing }))) ∧
     (n.state = .closing → s.deadlinePasses r = s.enterDraining r) ∧ (n.state ≠ .closing → s.deadlinePasses r = s))) ∧
  ∀ s : State,
    (s.canonical → ∀ z d n, (s.quiesce).night { zone := z, desc := d } = some n → n.state = .draining →
      ∃ m, n.mark = some m ∧ ∃ w ∈ (s.quiesce).outstanding, w.issue ≤ m) ∧
    (s.canonical →
      let waitOver (n : Night) : Prop := n.state = .draining ∧ ∀ m, n.mark = some m → ∀ w ∈ s.quiesce.outstanding, m < w.issue
      ∃ rs : List NightRef, rs.Nodup ∧ s.quiesce.assess = { queue := s.assess.queue ++ rs, flight := s.assess.flight } ∧
        (∀ r, r ∈ rs ↔ ∃ n, s.night r = some n ∧ waitOver n) ∧
        ∀ r, (∀ n, s.night r = some n → waitOver n → s.quiesce.night r = some { n with state := .queued, mark := none }) ∧
          ((∀ n, s.night r = some n → ¬ waitOver n) → s.quiesce.night r = s.night r)) ∧
    (∀ a, s.chain = .applying a → s.unreached a = [] → s.quiesce.chain = .idle) ∧
    ((∀ a, s.chain = .applying a → s.unreached a ≠ []) → s.quiesce.chain = s.chain) ∧
    (∀ z, { s.quiesce.zone z with night0 := none, night1 := none, night2 := none } =
      { s.zone z with night0 := none, night1 := none, night2 := none }) ∧
    s.quiesce.meters = s.meters ∧ s.quiesce.clock = s.clock ∧ s.quiesce.settings = s.settings ∧ s.quiesce.channels = s.channels ∧
    s.quiesce.intake = s.intake ∧ s.quiesce.notices = s.notices ∧ s.quiesce.stream = s.stream ∧ s.quiesce.link = s.link ∧
    s.quiesce.pending = s.pending

/-- A regular window start of an ACTIVE zone with a window (R27, R29, R75, R76, R78): CLOCK_JUMP, BACKLOG and POOL
skips in that order, and else a night OPEN in the lowest free regular descriptor, with its window, K, deadline,
the zone's boundary as its required set, and one slot record for each slot. The start of an ARMED survey (R33, R77): released with
a CLOCK_JUMP or POOL skip, or OPEN in its descriptor, limited by the free slot records alone. Either opening (`Opens`) fills the slot
records with the good chain segments of the required meters, makes the quality DISTURBED where the window overlaps the settle
interval (R85) and else leaves it CLEAN, is not reached by an application in flight (R51), and changes nothing else. -/
def Obligations.WindowStartOpensOrSkips : Prop :=
  (∀ (s : State) (z w t1 : Nat) (e : ZoneEntry) (win : Window), s.entry z = some e → e.window = some win →
    let deadline := w + win.slots * (s.settings.slotLength * 60) + 60 * e.delay
    (4294967295 < deadline → s.regularStart z w t1 = s) ∧
    (deadline ≤ 4294967295 →
      (deadline ≤ t1 → s.regularStart z w t1 = s.recordSkip z .clockJump (w / 86400)) ∧
      (t1 < deadline →
        ((s.zone z).night0.isSome → (s.zone z).night1.isSome → s.regularStart z w t1 = s.recordSkip z .backlog (w / 86400)) ∧
        ((s.zone z).night0 = none ∨ (s.zone z).night1 = none →
          ((8192 - s.settings.reserve < s.regularHeld + win.slots ∨ s.freeSlots < win.slots) →
            s.regularStart z w t1 = s.recordSkip z .pool (w / 86400)) ∧
          (s.regularHeld + win.slots ≤ 8192 - s.settings.reserve → win.slots ≤ s.freeSlots →
            s.Opens { zone := z, desc := if (s.zone z).night0 = none then 0 else 1 }
              { start := w, slotCount := win.slots, runLength := e.runLength, deadline := deadline, state := .armed, required := [],
                mark := none, quality := .clean, lateCount := 0, slots := [] } (s.regularStart z w t1)))))) ∧
  ∀ (s : State) (z t1 : Nat) (n : Night),
    let r : NightRef := { zone := z, desc := 2 }
    s.night r = some n →
    (n.state ≠ .armed → s.surveyStart z t1 = s) ∧
    (n.state = .armed →
      (n.deadline ≤ t1 → s.surveyStart z t1 = (s.releaseNight r).recordSkip z .clockJump (n.start / 86400)) ∧
      (t1 < n.deadline →
        (s.freeSlots < n.slotCount → s.surveyStart z t1 = (s.releaseNight r).recordSkip z .pool (n.start / 86400)) ∧
        (n.slotCount ≤ s.freeSlots →
          s.Opens r n (s.surveyStart z t1))))

/-! ### Zones and surveys -/

/-- ZONE DEFINE creates the entry of R1 for an UNDEFINED zone and is refused with WRONG_STATE for any other; ZONE UNDEFINE
clears an IDLE zone's entry and puts its verdict record into the initial state, keeping its flags and skip record, its
refusals in the order of R6. -/
def Obligations.ZonesAreDefinedAndUndefined : Prop :=
  (∀ (tag : Byte) (z : Nat) (s : State), s.ready → 1 ≤ z → z ≤ 256 →
     let h : Held := { kind := 0x09, tag := tag, request := .zoneDefine z }
     (s.entry z = none →
       exec (.zoneDefine tag z) s =
         .next (((s.executing h).setEntry z (some
           { active := false, window := none, runLength := 4, delay := 360, properties := 0, perProperty := 0, users := [],
             tests := { learn := 7, weight := 3, burst := 2000, persist := 2, slack := 200, limit := 5000, settleLength := 1440 },
             settle := none })).answer h .ok (le 2 z) false)) ∧
     ((s.entry z).isSome → exec (.zoneDefine tag z) s = .next ((s.executing h).answer h .wrongState [] false))) ∧
  (∀ (tag : Byte) (z : Nat) (s : State) (e : ZoneEntry), s.ready → 1 ≤ z → z ≤ 256 → s.entry z = some e →
     let h : Held := { kind := 0x0C, tag := tag, request := .zoneUndefine z }
     let v := s.zone z
     let held : Bool := v.night0.isSome || v.night1.isSome || v.night2.isSome
     let named : Bool := s.meters.any fun p => p.2.upstream = z || p.2.downstream = z
     (e.active = true ∨ v.verdict.state = .alarm ∨ v.verdict.state = .repair →
       exec (.zoneUndefine tag z) s = .next ((s.executing h).answer h .wrongState [] false)) ∧
     (e.active = false → v.verdict.state ≠ .alarm → v.verdict.state ≠ .repair →
       (named = true ∨ held = true → exec (.zoneUndefine tag z) s = .next ((s.executing h).answer h .busy [] false)) ∧
       (named = false → held = false →
         exec (.zoneUndefine tag z) s =
           .next (((s.executing h).setZone z
             { v with entry := none,
                      verdict := { baseline := 0, count := 0, cusum := 0, persistence := 0, state := .learning, last := none,
                                   waiting := none, alarm := none, survey := none } }).answer h .ok [] false))))

/-- ZONE START sets an IDLE zone ACTIVE in RUN where it has a window and an IN meter, and its refusals; ZONE STOP sets an
ACTIVE zone IDLE and releases its nights that are not frozen, each with a skip of cause STOPPED and its night day (R87, R88), keeping
its frozen nights and the nights of other zones. The order of those skips is the world's choice: log 1. -/
def Obligations.ZonesStartAndStop : Prop :=
  (∀ (tag : Byte) (z : Nat) (s : State), s.ready → 1 ≤ z → z ≤ 256 →
     let h : Held := { kind := 0x0A, tag := tag, request := .zoneStart z }
     (s.clock.running = false → exec (.zoneStart tag z) s = .next ((s.executing h).answer h .notReady [] false)) ∧
     (s.clock.running = true →
       (s.entry z = none → exec (.zoneStart tag z) s = .next ((s.executing h).answer h .noSuch [] false)) ∧
       ∀ e, s.entry z = some e →
         (e.active = true ∨ e.window = none ∨ s.hasInflow z = false →
           exec (.zoneStart tag z) s = .next ((s.executing h).answer h .wrongState [] false)) ∧
         (e.active = false → e.window.isSome → s.hasInflow z = true →
           exec (.zoneStart tag z) s =
             .next (((s.executing h).setEntry z (some { e with active := true })).answer h .ok [] false)))) ∧
  (∀ (tag : Byte) (z : Nat) (s : State) (e : ZoneEntry), s.ready → 1 ≤ z → z ≤ 256 → s.entry z = some e →
     let h : Held := { kind := 0x0B, tag := tag, request := .zoneStop z }
     (e.active = false → exec (.zoneStop tag z) s = .next ((s.executing h).answer h .wrongState [] false)) ∧
     (e.active = true →
       ∃ u : State, exec (.zoneStop tag z) s = .next (u.quiesce.answer h .ok [] false) ∧
         u.entry z = some { e with active := false } ∧
         (∀ d, d < 3 → u.night { zone := z, desc := d } = if (s.night { zone := z, desc := d }).any Night.frozen then
           s.night { zone := z, desc := d } else none) ∧
         (∀ y, y ≠ z → u.zone y = s.zone y) ∧ (u.zone z).verdict = (s.zone z).verdict ∧
         u.meters = s.meters ∧ u.clock = s.clock ∧ u.settings = s.settings ∧ u.channels = s.channels ∧ u.intake = s.intake ∧
         u.assess = s.assess ∧ u.link = (s.executing h).link ∧ u.pending = s.pending ∧
         ∃ (ds world : List Nat) (choices : Nat),
           ds.Perm ([0, 1, 2].filter fun d => (s.night { zone := z, desc := d }).any fun n => !n.frozen) ∧
           u = { ds.foldl
                   (fun x d =>
                     match s.night { zone := z, desc := d } with
                     | none => x
                     | some n => (x.releaseNight { zone := z, desc := d }).recordSkip z .stopped (n.start / 86400))
                   ((s.executing h).setEntry z (some { e with active := false })) with
                 world := world, choices := choices }))

/-- ZONE SET WINDOW, ZONE SET ALLOWANCE and ZONE SET TESTS replace what they carry in the entry of a defined zone
and nothing else, and their refusals. -/
def Obligations.ZoneSettingsReplaceWhatTheyCarry : Prop :=
  ∀ (tag : Byte) (z : Nat) (s : State) (e : ZoneEntry), s.ready → 1 ≤ z → z ≤ 256 → s.entry z = some e →
    (∀ f : WindowSpec, windowInRange f = true →
      let h : Held := { kind := 0x0D, tag := tag, request := .zoneSetWindow z f }
      let k := f.runLength.getD e.runLength
      let d := f.delay.getD e.delay
      (e.active = true → exec (.zoneSetWindow tag z f) s = .next ((s.executing h).answer h .busy [] false)) ∧
      (e.active = false →
        (f.start % s.settings.slotLength ≠ 0 ∨ f.slots < k →
          exec (.zoneSetWindow tag z f) s = .next ((s.executing h).answer h .badValue [] false)) ∧
        (f.start % s.settings.slotLength = 0 → k ≤ f.slots →
          exec (.zoneSetWindow tag z f) s =
            .next (((s.executing h).setEntry z (some
              { e with window := some { start := f.start, slots := f.slots }, runLength := k, delay := d })).answer h .ok
                (le 2 f.start ++ le 1 f.slots ++ le 1 k ++ le 2 d) false)))) ∧
    (∀ a b us, requestInRange (.zoneSetAllowance z a b us) = true →
      let h : Held := { kind := 0x0E, tag := tag, request := .zoneSetAllowance z a b us }
      (¬ (us.map (·.tag)).Nodup → exec (.zoneSetAllowance tag z a b us) s = .next ((s.executing h).answer h .duplicate [] false)) ∧
      ((us.map (·.tag)).Nodup →
        exec (.zoneSetAllowance tag z a b us) s =
          .next (((s.executing h).setEntry z (some { e with properties := a, perProperty := b, users := us })).answer h .ok [] false))) ∧
    (∀ t : Tests, testsInRange t = true →
      let h : Held := { kind := 0x0F, tag := tag, request := .zoneSetTests z t }
      exec (.zoneSetTests tag z t) s = .next (((s.executing h).setEntry z (some { e with tests := t })).answer h .ok [] false))

/-- DISTURB sets the settle interval of a defined zone, or widens it to the hull, and marks the zone's OPEN, CLOSING
and DRAINING nights whose windows overlap it; the reply carries the interval now held.
The place of its relation check is the model's: log 15. -/
def Obligations.DisturbWidensTheSettleInterval : Prop :=
  ∀ (tag : Byte) (z a b : Nat) (s : State) (e : ZoneEntry), s.ready → requestInRange (.disturb z a b) = true →
    s.entry z = some e →
    let h : Held := { kind := 0x10, tag := tag, request := .disturb z a b }
    let p : Span := match e.settle with
      | none => { start := a, stop := b }
      | some o => { start := min o.start a, stop := max o.stop b }
    (b ≤ a → exec (.disturb tag z a b) s = .next ((s.executing h).answer h .badValue [] false)) ∧
    (a < b →
      ∃ u : State, exec (.disturb tag z a b) s = .next (u.answer h .ok (le 4 p.start ++ le 4 p.stop) false) ∧
        u.entry z = some { e with settle := some p } ∧
        (∀ d, d < 3 → u.night { zone := z, desc := d } = (s.night { zone := z, desc := d }).map fun n =>
          if n.start < p.stop ∧ p.start < n.windowEnd s.slotSeconds ∧ n.tracked = true ∧ n.quality = .clean then
            { n with quality := .disturbed } else n) ∧
        (∀ y, y ≠ z → u.zone y = s.zone y) ∧ (u.zone z).verdict = (s.zone z).verdict ∧ (u.zone z).skip = (s.zone z).skip ∧
        (u.zone z).flags = (s.zone z).flags ∧ (u.zone z).blocked = (s.zone z).blocked ∧
        u.meters = s.meters ∧ u.clock = s.clock ∧ u.settings = s.settings ∧ u.channels = s.channels ∧ u.intake = s.intake ∧
        u.chain = s.chain ∧ u.assess = s.assess ∧ u.notices = s.notices ∧ u.stream = s.stream ∧ u.pending = s.pending ∧
        u.link = (s.executing h).link)

/-- SURVEY ARM, with REPLACE and without it, in RUN: WRONG_STATE for a defined zone that is not ACTIVE; for an ACTIVE zone BUSY or LATE by the survey in the descriptor, BAD_VALUE
where a relation fails, and else the new survey ARMED in descriptor 2, an unfrozen old one released. SURVEY CANCEL:
NO_SUCH for a free descriptor, LATE for a frozen survey, and else the survey is released. -/
def Obligations.SurveysAreArmedAndCancelled : Prop :=
  (∀ (tag : Byte) (z : Nat) (f : SurveySpec) (replace : Bool) (s : State) (e : ZoneEntry), s.ready →
     requestInRange (.surveyArm z f replace) = true → s.clock.running = true → s.entry z = some e →
     let c : Instr := if replace then .surveyArmReplace tag z f else .surveyArm tag z f
     let h : Held := { kind := 0x07, tag := tag, request := .surveyArm z f replace }
     let r : NightRef := { zone := z, desc := 2 }
     let L := s.settings.slotLength * 60
     let deadline := f.start + f.slots * L + 60 * e.delay
     (e.active = false → exec c s = .next ((s.executing h).answer h .wrongState [] false)) ∧
     (e.active = true → replace = false → (s.night r).isSome → exec c s = .next ((s.executing h).answer h .busy [] false)) ∧
     (e.active = true → replace = true → (s.night r).any Night.frozen = true →
       exec c s = .next ((s.executing h).answer h .late [] false)) ∧
     (e.active = true → (s.night r = none ∨ (replace = true ∧ (s.night r).any Night.frozen = false)) →
       (f.start % L ≠ 0 ∨ f.start ≤ s.clock.time ∨ f.slots < f.runLength ∨ 4294967295 < deadline →
         exec c s = .next ((s.executing h).answer h .badValue [] false)) ∧
       (f.start % L = 0 → s.clock.time < f.start → f.runLength ≤ f.slots → deadline ≤ 4294967295 →
         exec c s =
           .next ((((s.executing h).releaseNight r).setNight r (some
             { start := f.start, slotCount := f.slots, runLength := f.runLength, deadline := deadline, state := .armed, required := [],
               mark := none, quality := .clean, lateCount := 0, slots := [] })).quiesce.answer h .ok
             (le 2 z ++ le 4 f.start ++ le 1 f.slots ++ le 1 f.runLength ++ le 4 deadline) false)))) ∧
  (∀ (tag : Byte) (z : Nat) (s : State), s.ready → 1 ≤ z → z ≤ 256 → (s.entry z).isSome →
     let h : Held := { kind := 0x08, tag := tag, request := .surveyCancel z }
     let r : NightRef := { zone := z, desc := 2 }
     (s.night r = none → exec (.surveyCancel tag z) s = .next ((s.executing h).answer h .noSuch [] false)) ∧
     ∀ n, s.night r = some n →
       (n.frozen = true → exec (.surveyCancel tag z) s = .next ((s.executing h).answer h .late [] false)) ∧
       (n.frozen = false →
         exec (.surveyCancel tag z) s = .next (((s.executing h).releaseNight r).quiesce.answer h .ok [] false)))

/-! ### Meters -/

/-- METER DEFINE: NO_SUCH, DUPLICATE, FULL and BUSY in the order of R14, and else the entry at the lowest free index. -/
def Obligations.MeterDefineTakesTheLowestIndex : Prop :=
  ∀ (tag : Byte) (f : MeterSpec) (s : State), s.ready → requestInRange (.meterDefine f) = true → s.canonical →
    let h : Held := { kind := 0x11, tag := tag, request := .meterDefine f }
    let undefinedZone : Prop := (f.upstream ≠ 0 ∧ s.entry f.upstream = none) ∨ (f.downstream ≠ 0 ∧ s.entry f.downstream = none)
    let boundaryFull : Prop := (f.upstream ≠ 0 ∧ 16 ≤ (s.boundary f.upstream).length) ∨
      (f.downstream ≠ 0 ∧ 16 ≤ (s.boundary f.downstream).length)
    (undefinedZone → exec (.meterDefine tag f) s = .next ((s.executing h).answer h .noSuch [] false)) ∧
    (¬ undefinedZone →
      ((s.meterByTag f.tag).isSome → exec (.meterDefine tag f) s = .next ((s.executing h).answer h .duplicate [] false)) ∧
      (s.meterByTag f.tag = none →
        (1024 ≤ s.meters.length ∨ boundaryFull → exec (.meterDefine tag f) s = .next ((s.executing h).answer h .full [] false)) ∧
        (s.meters.length < 1024 → ¬ boundaryFull →
          ((∃ c, f.channel = some c ∧ (s.boundMeter c).isSome) →
            exec (.meterDefine tag f) s = .next ((s.executing h).answer h .busy [] false)) ∧
          ((∀ c, f.channel = some c → s.boundMeter c = none) →
            ∃ (i : Nat) (kind : MeterKind) (modulus scale : Nat),
              s.meter i = none ∧ (∀ j, j < i → (s.meter j).isSome) ∧ MeterKind.ofCode f.kind = some kind ∧
              modulusOfCode f.modulus = some modulus ∧ scaleOfCode f.scale = some scale ∧
              exec (.meterDefine tag f) s =
                .next (((s.executing h).putMeter i
                  { tag := f.tag, kind := kind, upstream := f.upstream, downstream := f.downstream, modulus := modulus, scale := scale,
                    maxRate := f.maxRate, maxGap := f.maxGap.getD 3600, channel := f.channel, cut := none, chain := [],
                    exceptions := none }).answer h .ok (le 4 f.tag ++ le 2 i) false)))))

/-- METER RETIRE and METER CUT of a defined meter, and CHANNEL SET with settings for a channel that has a bound meter, wait in
the head place for the Chain Unit, without a reply; a tag the tag map does not hold gives NO_SUCH. CUT_TAKEN: between
applications the Chain Unit takes the waiting cut: the cut time set, the chain emptied, the exception record kept, and the
reply follows. RETIRE_TAKEN: BUSY while a night that is not ARMED requires the meter or it is the only IN meter of an
ACTIVE zone; else the meter goes, with its waiting readings and its reading in hand.
What CUT_TAKEN does during an application is the model's: log 3. So is that NO_SUCH for a tag the tag map does not hold comes at once,
without a wait for the Chain Unit: log 33. -/
def Obligations.ChainUnitRequestsWaitAndAreTaken : Prop :=
  (∀ (tag : Byte) (meterTag time channel a b n : Nat) (s : State), s.ready →
     let hr : Held := { kind := 0x12, tag := tag, request := .meterRetire meterTag }
     let hc : Held := { kind := 0x13, tag := tag, request := .meterCut meterTag time }
     let f : ChannelSpec := { enable := some a, width := some b, noise := some n }
     let hs : Held := { kind := 0x17, tag := tag, request := .channelSet channel f }
     (∀ i m, s.meterByTag meterTag = some i → s.meter i = some m →
       exec (.meterRetire tag meterTag) s = .next (s.executing hr).afterwards ∧
       (time ≤ 4294967295 → exec (.meterCut tag meterTag time) s = .next (s.executing hc).afterwards)) ∧
     (s.meterByTag meterTag = none →
       exec (.meterRetire tag meterTag) s = .next ((s.executing hr).answer hr .noSuch [] false) ∧
       (time ≤ 4294967295 → exec (.meterCut tag meterTag time) s = .next ((s.executing hc).answer hc .noSuch [] false))) ∧
     (requestInRange (.channelSet channel f) = true → (s.boundMeter channel).isSome →
       exec (.channelSet tag channel f) s = .next (s.executing hs).afterwards)) ∧
  ((∀ (s : State) (h : Held) (meterTag time i : Nat) (m : Meter), s.link.resetLow = false →
      s.link.head = some { held := h, reply := none } → h.request = .meterCut meterTag time →
      s.meterByTag meterTag = some i → s.meter i = some m →
      (s.chain = .idle ∨ (∃ w, s.chain = .inHand w) →
        exec .cutTaken s = .next ((s.putMeter i { m with cut := some time, chain := [] }).answer h .ok [] false)) ∧
      (∀ a, s.chain = .applying a → exec .cutTaken s = .next s.afterwards)) ∧
   (∀ (s : State) (h : Held) (meterTag i : Nat) (m : Meter), s.link.resetLow = false →
      s.link.head = some { held := h, reply := none } → h.request = .meterRetire meterTag →
      s.meterByTag meterTag = some i → s.meter i = some m → (s.chain = .idle ∨ ∃ w, s.chain = .inHand w) →
      let required : Bool := s.nights.any fun p => (p.2.state != .armed) && p.2.requires i
      let onlyIn : Bool := (s.entry m.downstream).any (·.active) && !(s.meters.any fun p => p.1 ≠ i && p.2.downstream = m.downstream)
      (required = true ∨ onlyIn = true → exec .retireTaken s = .next (s.answer h .busy [] false)) ∧
      (required = false → onlyIn = false →
        ∃ u : State, exec .retireTaken s = .next (u.quiesce.answer h .ok [] false) ∧
          u = { s with
                meters := s.meters.filter fun p => p.1 ≠ i
                intake := { s.intake with queue := s.intake.queue.filter fun w => w.meter ≠ i }
                chain := if s.inHand.any (fun w => w.meter = i) then .idle else s.chain })))

/-- CHANNEL SET with settings for a channel without a bound meter, carried out at once, and CHANNEL_SET_TAKEN for one
with a bound meter: the settings set, both counts 0, the reserved place emptied, the bound meter cut at the site
time; BUSY where the bound meter's reading is in hand. The reply carries the record as it then stands.
The layout of the reply is in part the model's: log 12. -/
def Obligations.ChannelSetConfigures : Prop :=
  ∀ (tag : Byte) (c a b n : Nat) (s : State), s.link.resetLow = false →
    let f : ChannelSpec := { enable := some a, width := some b, noise := some n }
    let h : Held := { kind := 0x17, tag := tag, request := .channelSet c f }
    requestInRange (.channelSet c f) = true →
    let set : State → State := fun x =>
      (x.setChannel c { enable := a = 1, width := b, noiseLimit := n, count := 0, rejected := 0, measuring := false,
                        lineLow := (x.channel c).lineLow }).dequeueWhere fun w => w.origin = .channel c
    (s.ready → s.boundMeter c = none →
      exec (.channelSet tag c f) s =
        .next ((set (s.executing h)).quiesce.answer h .ok ((set (s.executing h)).quiesce.channelFields c) false)) ∧
    (∀ i m, s.link.head = some { held := h, reply := none } → s.boundMeter c = some (i, m) → s.meter i = some m →
      (s.chain = .idle ∨ ∃ w, s.chain = .inHand w) →
      let u := ((set s).putMeter i { m with cut := some s.clock.time, chain := [] }).quiesce
      (s.inHand.any (fun w => w.meter = i) = true → exec .channelSetTaken s = .next (s.answer h .busy [] false)) ∧
      (s.inHand.any (fun w => w.meter = i) = false →
        exec .channelSetTaken s = .next (u.answer h .ok (u.channelFields c) false)))

/-- R48: CHANNEL SET carrying a channel number alone changes nothing and replies OK with the channel's record.
The layout of the reply is in part the model's: log 12. -/
def Obligations.ChannelReadReports : Prop :=
  ∀ (tag : Byte) (c : Nat) (s : State), s.ready → c ≤ 7 →
    let f : ChannelSpec := { enable := none, width := none, noise := none }
    let h : Held := { kind := 0x17, tag := tag, request := .channelSet c f }
    let v := s.channel c
    let fields : List Byte := leBool v.enable ++
      (match s.boundMeter c with
        | none => [0, 0, 0, 0, 0, 0, 0]
        | some (i, m) => 1 :: (le 4 m.tag ++ le 2 i)) ++
      le 1 v.width ++ le 1 v.noiseLimit ++ le 4 v.count ++ le 2 v.rejected ++ leBool (s.reserved c).isSome
    exec (.channelSetRead tag c) s = .next ((s.executing h).answer h .ok fields false) ∧
      exec (.channelSet tag c f) s = .next ((s.executing h).answer h .ok fields false)

/-- METER STATUS and METER EXCEPTIONS report and empty the exception record as one act; a tag the tag map does not
hold gives NO_SUCH; a sweep reports the first 16 set records from its index up, and empties them. The fields of METER STATUS are those
of R67 in its order, an exception record its code, timestamp and count, zeros when empty.
The layout of the reply is in part the model's: log 12. -/
def Obligations.MeterReportsEmptyTheRecord : Prop :=
  ∀ (tag : Byte) (meterTag : Nat) (s : State), s.ready →
    let hs : Held := { kind := 0x14, tag := tag, request := .meterStatus meterTag }
    let he : Held := { kind := 0x15, tag := tag, request := .exceptionsTag meterTag }
    let record (x : Option ExceptionRecord) : List Byte := match x with
      | none => [0, 0, 0, 0, 0, 0]
      | some x => [byte x.code.code] ++ le 4 x.time ++ [byte x.count]
    let optional (k : Nat) (x : Option Nat) : List Byte := match x with
      | none => 0 :: List.replicate k 0
      | some x => 1 :: le k x
    let fields (i : Nat) (m : Meter) : List Byte :=
      le 4 m.tag ++ le 2 i ++ [byte m.kind.code] ++ le 2 m.upstream ++ le 2 m.downstream ++ [byte (modulusCode m.modulus)] ++
        [byte (scaleCode m.scale)] ++ le 4 m.maxRate ++ le 4 m.maxGap ++ optional 1 m.channel ++ optional 4 m.cut ++
        [byte m.chain.length] ++ optional 4 (m.chain.head?.map (·.time)) ++ optional 4 (m.chain.getLast?.map (·.time)) ++
        optional 4 (m.chain.getLast?.map (·.forward)) ++ optional 4 (m.chain.getLast?.bind (·.reverse)) ++
        [if s.inHand.any (fun w => w.meter = i) then 1 else 0] ++ record m.exceptions
    (s.meterByTag meterTag = none →
      exec (.meterStatus tag meterTag) s = .next ((s.executing hs).answer hs .noSuch [] false) ∧
      exec (.meterExceptionsTag tag meterTag) s = .next ((s.executing he).answer he .noSuch [] false)) ∧
    (∀ i m, s.meterByTag meterTag = some i → s.meter i = some m →
      exec (.meterStatus tag meterTag) s =
        .next (((s.executing hs).putMeter i { m with exceptions := none }).answer hs .ok (fields i m) false) ∧
      exec (.meterExceptionsTag tag meterTag) s =
        .next (((s.executing he).putMeter i { m with exceptions := none }).answer he .ok
          (le 4 m.tag ++ le 2 i ++ record m.exceptions) false)) ∧
    ∀ index, index ≤ 1023 → s.canonical →
      let hw : Held := { kind := 0x15, tag := tag, request := .exceptionsSweep index }
      let set := s.meters.filter fun p => index ≤ p.1 && p.2.exceptions.isSome
      let reported := set.take 16
      ∃ (u : State) (fields : List Byte), exec (.meterExceptionsSweep tag index) s = .next (u.answer hw .ok fields false) ∧
        fields =
          le 1 reported.length ++ reported.flatMap (fun p => le 4 p.2.tag ++ le 2 p.1 ++ record p.2.exceptions) ++
            (if set.length ≤ 16 then [0, 0, 0, 1] else 1 :: (le 2 ((reported.getLast?.map (·.1)).getD 0 + 1) ++ [0])) ∧
        (∀ j, u.meter j = (s.meter j).map fun m =>
          if reported.any (fun p => p.1 = j) then { m with exceptions := none } else m) ∧
        u.zones = s.zones ∧ u.clock = s.clock ∧ u.settings = s.settings ∧ u.channels = s.channels ∧ u.intake = s.intake ∧
        u.chain = s.chain ∧ u.assess = s.assess ∧ u.notices = s.notices ∧ u.stream = s.stream ∧ u.pending = s.pending ∧
        u.link = (s.executing hw).link

/-! ### Readings, pulses and the Chain Unit -/

/-- R38 with the sum test of R163: a record's outcome is the first of the table whose condition holds; ACCEPTED it enters the
queue with the next intake number, otherwise it leaves no trace. READINGS of 1 to 16 records is taken in one act, record
after record, and answered OK with the outcomes, the number of the first accepted record and the host places then free;
nothing but the intake changes. -/
def Obligations.ReadingsAreTakenRecordByRecord : Prop :=
  (∀ (s : State) (base : Nat) (r : ReadingSpec),
     let time := base + r.offset
     let one := State.takeRecords base [r] s
     (s.clock.running = false → one = ([.notReady], s)) ∧
     (s.clock.running = true →
       (s.meterByTag r.tag = none → one = ([.noSuchMeter], s)) ∧
       ∀ i m, s.meterByTag r.tag = some i → s.meter i = some m →
         let bad : Prop := m.modulus ≤ r.forward ∨ (m.kind = .bidir ∧ ∀ v, r.reverse = some v → m.modulus ≤ v) ∨
           (m.kind = .bulk ∧ r.reverse.isSome) ∨ 4294967295 < time
         (m.kind = .pulse → one = ([.wrongKind], s)) ∧
         (m.kind ≠ .pulse → bad → one = ([.badValue], s)) ∧
         (m.kind ≠ .pulse → ¬ bad → s.clock.time + 300 < time → one = ([.future], s)) ∧
         (m.kind ≠ .pulse → ¬ bad → time ≤ s.clock.time + 300 → 56 ≤ s.hostWaiting → one = ([.queueFull], s)) ∧
         (m.kind ≠ .pulse → ¬ bad → time ≤ s.clock.time + 300 → s.hostWaiting < 56 →
           one = ([.accepted],
             { s with
               intake :=
                 { queue := s.intake.queue ++
                     [{ issue := s.intake.next, meter := i,
                        reading := { time := time, forward := r.forward, reverse := r.reverse, noisy := none }, origin := .host }],
                   next := s.intake.next + 1 } })))) ∧
  (∀ (tag : Byte) (base : Nat) (rs : List ReadingSpec) (s : State), s.ready → 1 ≤ rs.length → rs.length ≤ 16 →
     let h : Held := { kind := 0x16, tag := tag, request := .readings base rs }
     let os := (State.takeRecords base rs (s.executing h)).1
     let u := (State.takeRecords base rs (s.executing h)).2
     exec (.readings tag base rs) s =
         .next (u.answer h .ok
           (le 1 rs.length ++ os.map (fun o => byte o.code) ++
             (if os.contains .accepted then 1 :: le 4 (s.intake.next % 4294967296) else [0, 0, 0, 0, 0]) ++ le 1 (56 - u.hostWaiting))
           false) ∧
       os.length = rs.length ∧ { u with intake := s.intake } = s.executing h ∧
       (∀ q base', State.takeRecords base' [] q = ([], q)) ∧
       ∀ r rest q,
         State.takeRecords base (r :: rest) q =
           ((State.takeRecords base [r] q).1 ++ (State.takeRecords base rest (State.takeRecords base [r] q).2).1,
             (State.takeRecords base rest (State.takeRecords base [r] q).2).2))

/-- PULSE_FALLING_EDGE and PULSE_RISING_EDGE: a low period that began while the channel was on is counted where it lasted
at least the minimum low width in whole milliseconds, and rejected where it was shorter; a channel that is off does
not respond. Nothing but the channel changes.
The length in microseconds is the model's: log 6. -/
def Obligations.PulsesAreJudgedByTheirWidth : Prop :=
  ∀ (c micros : Nat) (s : State), c < 8 → s.link.resetLow = false →
    let v := s.channel c
    (v.lineLow = false →
      exec (.pulseFallingEdge c) s = .next (s.setChannel c { v with lineLow := true, measuring := v.enable }) ∧
      exec (.pulseRisingEdge c micros) s = .next (s.setChannel c v)) ∧
    (v.lineLow = true →
      exec (.pulseFallingEdge c) s = .next (s.setChannel c v) ∧
      (v.enable = true → v.measuring = true → v.width ≤ micros / 1000 →
        exec (.pulseRisingEdge c micros) s =
          .next (s.setChannel c { v with lineLow := false, measuring := false, count := (v.count + 1) % 4294967296 })) ∧
      (v.enable = true → v.measuring = true → micros / 1000 < v.width →
        exec (.pulseRisingEdge c micros) s =
          .next (s.setChannel c { v with lineLow := false, measuring := false, rejected := min (v.rejected + 1) 65535 })) ∧
      (v.enable = false ∨ v.measuring = false →
        exec (.pulseRisingEdge c micros) s = .next (s.setChannel c { v with lineLow := false, measuring := false })))

/-- TAKE_READING: the idle Chain Unit takes the head of the Intake Queue in hand, freeing its place, unless a request waits
for the Chain Unit; in any other case nothing is taken. CHAIN_DECISION carries out the decision on the reading in hand
as one step: the chain becomes what the decision leaves, its exceptions are recorded in order, and the application
begins, or ends at once where there is nothing for the nights.
What each does where its condition does not hold, and that a waiting CHANNEL SET holds
a reading back, are the model's: log 3, log 31. -/
def Obligations.ChainUnitTakesAndDecides : Prop :=
  (∀ s : State, s.link.resetLow = false →
     (∀ w rest, s.chain = .idle → s.intake.queue = w :: rest → (∀ h, s.link.head ≠ some { held := h, reply := none }) →
       exec .takeReading s = .next (State.afterwards { s with chain := .inHand w, intake := { s.intake with queue := rest } })) ∧
     (s.chain ≠ .idle ∨ s.intake.queue = [] ∨ (∃ h, s.link.head = some { held := h, reply := none }) →
       exec .takeReading s = .next s.afterwards)) ∧
  (∀ (s : State), s.link.resetLow = false →
     (∀ (w : Waiting) (m : Meter), s.chain = .inHand w → s.meter w.meter = some m →
       let d := m.decide w.reading
       let u := d.codes.foldl (fun x c => x.recordException w.meter c w.reading.time) (s.putMeter w.meter { m with chain := d.chain })
       exec .chainDecision s =
         .next (State.quiesce
           { u with
             chain :=
               match d.change with
               | none => .idle
               | some c => .applying { waiting := w, change := c, reached := [], late := false } }).afterwards) ∧
     ((∀ w, s.chain ≠ .inHand w) → exec .chainDecision s = .next s.afterwards))

/-- R52: a reading earlier than its meter's cut time is dropped: the chain unchanged, nothing placed, STALE recorded with
its timestamp; one that equals the cut time, or a meter without one, drops nothing by this rule. -/
def Obligations.StaleBeforeTheCutTime : Prop :=
  ∀ (s : State) (w : Waiting) (m : Meter), s.link.resetLow = false → s.chain = .inHand w → s.meter w.meter = some m →
    (∀ c, m.cut = some c → w.reading.time < c →
      exec .chainDecision s =
        .next (State.quiesce { (s.putMeter w.meter m).recordException w.meter .stale w.reading.time with chain := .idle }).afterwards) ∧
    ((m.cut = none ∨ ∃ c, m.cut = some c ∧ c ≤ w.reading.time) →
      m.decide w.reading = { m with cut := none }.decide w.reading)

/-- The chain decision for a reading not dropped by R52 (R53 to R57, R66): a repeat is ignored, a different register at the
same time is a CONFLICT, an empty chain takes a reference, a later reading is appended, an earlier one goes to the
front of a chain of fewer than 8 and is STALE for a full one, one between two neighbours splits their segment; a chain
of nine loses its oldest. -/
def Obligations.ChainDecisionByTheChain : Prop :=
  ∀ (m : Meter) (r : Reading), (∀ c, m.cut = some c → c ≤ r.time) → m.chain.Pairwise (fun a b => a.time < b.time) →
    m.chain.length ≤ 8 →
    let codes (new : List Segment) : List ExceptionCode :=
      (if r.noisy = some true then [.noisy] else []) ++ if new.any (fun g => g.bad = some .spike) then [.spike] else []
    let newest (l : List Reading) := l.drop (l.length - 8)
    (∀ x ∈ m.chain, x.time = r.time → x.forward = r.forward → (m.kind = .bidir → x.reverse = r.reverse) →
      m.decide r = { chain := m.chain, change := none, codes := [] }) ∧
    (∀ x ∈ m.chain, x.time = r.time → (x.forward ≠ r.forward ∨ (m.kind = .bidir ∧ x.reverse ≠ r.reverse)) →
      m.decide r = { chain := m.chain, change := some .conflict, codes := [.conflict] }) ∧
    (m.chain = [] → m.decide r = { chain := [r], change := some (.segments none []), codes := codes [] }) ∧
    (∀ l a, m.chain = l ++ [a] → a.time < r.time →
      m.decide r = { chain := newest (m.chain ++ [r]), change := some (.segments none [m.segment a r]), codes := codes [m.segment a r] }) ∧
    (∀ b l, m.chain = b :: l → r.time < b.time →
      (m.chain.length = 8 → m.decide r = { chain := m.chain, change := none, codes := [.stale] }) ∧
      (m.chain.length < 8 →
        m.decide r = { chain := r :: m.chain, change := some (.segments none [m.segment r b]), codes := codes [m.segment r b] })) ∧
    (∀ l1 a b l2, m.chain = l1 ++ a :: b :: l2 → a.time < r.time → r.time < b.time →
      m.decide r =
        { chain := newest (l1 ++ a :: r :: b :: l2),
          change := some (.segments (some (m.segment a b)) [m.segment a r, m.segment r b]),
          codes := codes [m.segment a r, m.segment r b] })

/-- R58: the duration, the deltas and the volume of the segment between an earlier and a later reading; R59: what makes it bad, the
first of NOISY, GAP and SPIKE that holds. -/
def Obligations.SegmentVolume : Prop :=
  ∀ (m : Meter) (a b : Reading), 0 < m.modulus → a.forward < m.modulus → b.forward < m.modulus → a.time < b.time →
    let g := m.segment a b
    g.t1 = a.time ∧ g.t2 = b.time ∧ 1 ≤ g.t2 - g.t1 ∧
    m.forwardDelta a b = (b.forward + m.modulus - a.forward) % m.modulus ∧ m.forwardDelta a b ≤ m.modulus - 1 ∧
    (m.kind ≠ .bidir → g.volume = (m.forwardDelta a b : Int) * m.scale) ∧
    (∀ x y, m.kind = .bidir → a.reverse = some x → b.reverse = some y → x < m.modulus → y < m.modulus →
      m.reverseDelta a b = (y + m.modulus - x) % m.modulus ∧ m.reverseDelta a b ≤ m.modulus - 1 ∧
      g.volume = ((m.forwardDelta a b : Int) - m.reverseDelta a b) * m.scale) ∧
    (let most := m.maxRate * (b.time - a.time) / 3600
     let tooFast : Prop := most < m.forwardDelta a b * m.scale ∨ (m.kind = .bidir ∧ most < m.reverseDelta a b * m.scale) ∨
       g.volume < -2147483647 ∨ 2147483647 < g.volume
     (a.noisy = some true ∨ b.noisy = some true → g.bad = some .noisy) ∧
     (a.noisy ≠ some true → b.noisy ≠ some true →
       (m.maxGap < b.time - a.time → g.bad = some .gap) ∧
       (b.time - a.time ≤ m.maxGap → (tooFast → g.bad = some .spike) ∧ (¬ tooFast → g.bad = none))))

/-- R60: the share of a segment's volume up to an instant, the slots it overlaps, its slot volumes and coverages; in adjoining
slots that a segment fills they sum to its volume and its duration, and a withdrawal exactly undoes a placement. -/
def Obligations.SharesTelescope : Prop :=
  ∀ (g : Segment) (L : Nat), 0 < L → g.t1 < g.t2 →
    (∀ x, g.t1 ≤ x → x ≤ g.t2 → g.share x = (g.volume * ((x - g.t1 : Nat) : Int)).tdiv ((g.t2 - g.t1 : Nat) : Int)) ∧
    g.share g.t1 = 0 ∧ g.share g.t2 = g.volume ∧
    (∀ a, (g.overlaps a (a + L) = true ↔ max g.t1 a < min g.t2 (a + L)) ∧
      (g.overlaps a (a + L) = true →
        g.volumeIn a (a + L) = g.share (min g.t2 (a + L)) - g.share (max g.t1 a) ∧
        g.coverageIn a (a + L) = min g.t2 (a + L) - max g.t1 a ∧ 1 ≤ g.coverageIn a (a + L) ∧ g.coverageIn a (a + L) ≤ L)) ∧
    (∀ a n, a ≤ g.t1 → g.t2 ≤ a + n * L →
      ((List.range n).map fun k =>
        if g.overlaps (a + k * L) (a + k * L + L) then g.volumeIn (a + k * L) (a + k * L + L) else 0).sum = g.volume ∧
      ((List.range n).map fun k =>
        if g.overlaps (a + k * L) (a + k * L + L) then g.coverageIn (a + k * L) (a + k * L + L) else 0).sum = g.t2 - g.t1) ∧
    ∀ (pos : Nat) (role : Role) (a : Nat) (x : Slot), Slot.withdraw L g pos role a (Slot.place L g pos role a x) = x

/-- PLACEMENT of an unreached night (R51, R53, R61 to R66): in a tracked night the old segment is withdrawn and the new ones
placed as one act, a CONFLICT or the defects received where they are due, and a CLOSING night that is then complete drains; a
CONFLICT whose timestamp is outside the night's window, or whose meter the night does not require, hands it nothing; in
a frozen night a change is withheld, the late count rises and the application's first one records LATE. Of two different
defects handed to one night by the halves of a split either is received first: the world's choice, log 20. An ARMED survey is passed
without effect, and a night that is not to be reached is left alone: the model's, log 17 and log 3. Then what these acts are: which
segment concerns a night and which defects it hands (R61, R65), what a frozen night would have been changed by (R64), the sticky
first defect (R84), early completion (R80), and that each night is reached once (R51). -/
def Obligations.PlacementReachesOneNight : Prop :=
  (∀ (s : State) (z d : Nat) (a : Application) (n : Night),
    let r : NightRef := { zone := z, desc := d }
    let L := s.settings.slotLength * 60
    let i := a.waiting.meter
    let time := a.waiting.reading.time
    s.link.resetLow = false → s.chain = .applying a → s.night r = some n → r ∈ s.unreached a →
    (n.tracked = true →
      (∀ old new, a.change = .segments old new →
        (handedDefects L i n new = [] →
          exec (.placement z d) s =
            .next ((((s.setNight r (some (n.change L i old new))).earlyCompletion r).noteReached r false).quiesce).afterwards) ∧
        (∀ q, handedDefects L i n new = [q] ∨ handedDefects L i n new = [q, q] →
          exec (.placement z d) s =
            .next ((((s.setNight r (some ((n.change L i old new).receive q))).earlyCompletion r).noteReached r false).quiesce).afterwards) ∧
        (∀ p q, handedDefects L i n new = [p, q] → p ≠ q →
          ∃ (first second : Quality) (world : List Nat) (choices : Nat),
            ((first = p ∧ second = q) ∨ (first = q ∧ second = p)) ∧
            let u := ({ s with world := world, choices := choices } : State).setNight r
              (some (((n.change L i old new).receive first).receive second))
            exec (.placement z d) s = .next (((u.earlyCompletion r).noteReached r false).quiesce).afterwards)) ∧
      (a.change = .conflict →
        (n.requires i = true → n.start ≤ time → time < n.windowEnd L →
          exec (.placement z d) s =
            .next ((((s.setNight r (some (n.receive .conflict))).earlyCompletion r).noteReached r false).quiesce).afterwards) ∧
        (n.requires i = false ∨ time < n.start ∨ n.windowEnd L ≤ time →
          exec (.placement z d) s = .next (((s.earlyCompletion r).noteReached r false).quiesce).afterwards))) ∧
    (n.frozen = true →
      (a.change.wouldChange L i n = true →
        exec (.placement z d) s =
          .next ((((s.setNight r (some { n with lateCount := min (n.lateCount + 1) 65535 })).recordExceptionIf (!a.late) i .late
            time).noteReached r true).quiesce).afterwards) ∧
      (a.change.wouldChange L i n = false →
        exec (.placement z d) s = .next ((s.noteReached r false).quiesce).afterwards)) ∧
    (n.state = .armed → exec (.placement z d) s = .next ((s.noteReached r false).quiesce).afterwards)) ∧
  (∀ (s : State) (z d : Nat), s.link.resetLow = false →
    ((∀ a, s.chain ≠ .applying a) ∨ (∃ a, s.chain = .applying a ∧ ({ zone := z, desc := d } : NightRef) ∉ s.unreached a)) →
    exec (.placement z d) s = .next s.afterwards) ∧
  (∀ n : Night,
    (n.tracked = true ↔ n.state = .opened ∨ n.state = .closing ∨ n.state = .draining) ∧
    (n.frozen = true ↔ n.state = .queued ∨ n.state = .assessing) ∧
    (∀ i, n.requires i = true ↔ ∃ q ∈ n.required, q.meter = i) ∧
    ∀ q, (n.tracked = true → n.quality = .clean → n.receive q = { n with quality := q }) ∧
      (n.tracked = false ∨ n.quality ≠ .clean → n.receive q = n)) ∧
  (∀ (L i : Nat) (n : Night) (old : Option Segment) (new : List Segment),
    let concerned (g : Segment) : Bool :=
      n.requires i && n.state != .armed && decide (max g.t1 n.start < min g.t2 (n.start + n.slotCount * L))
    (handedDefects L i n new =
      ((new.filter concerned).map fun g => if g.bad = some .spike then [Quality.spike] else if g.bad = some .noisy then [.noisy] else
        []).flatten) ∧
    (ChainChange.wouldChange L i n .conflict = false) ∧
    (ChainChange.wouldChange L i n (.segments old new) = true ↔
      (∃ g, old = some g ∧ g.bad = none ∧ concerned g = true) ∨ ∃ g ∈ new, g.bad ≠ some .gap ∧ concerned g = true)) ∧
  ∀ (s : State) (r : NightRef),
    (∀ n, s.night r = some n →
      let complete : Bool := n.slots.all fun x => x.covered.all fun c => c = s.settings.slotLength * 60
      (n.state = .closing → complete = true → s.earlyCompletion r = s.enterDraining r) ∧
      (n.state ≠ .closing ∨ complete = false → s.earlyCompletion r = s)) ∧
    (∀ a late, s.chain = .applying a →
      s.noteReached r late = { s with chain := .applying { a with reached := r :: a.reached, late := a.late || late } }) ∧
    ∀ a m, s.meter a.waiting.meter = some m →
      (r ∈ s.unreached a ↔ r.zone ≠ 0 ∧ (r.zone = m.upstream ∨ r.zone = m.downstream) ∧ (s.night r).isSome ∧ r ∉ a.reached)

/-- Placing or withdrawing a good segment adds or subtracts, in every slot it overlaps, its slot volume at the meter's role
and its coverage at the meter's position, and changes no other slot and no other position (R61, R63, R78). What an application does
to a tracked night (`change`) is to withdraw the old segment and to place every new one, the good ones alone; a night that does not
require the meter is left as it is, and nothing but the slot records changes (R62, R63). -/
def Obligations.PlacingAddsSharesToSlots : Prop :=
  (∀ (L : Nat) (g : Segment) (n : Night) (meter pos : Nat) (role : Role) (k : Nat) (x : Slot), g.bad = none →
    n.position meter = some (pos, role) → n.slots[k]? = some x →
    let a := n.start + k * L
    (g.overlaps a (a + L) = false →
      (n.place L meter g).slots[k]? = some x ∧ (n.withdraw L meter g).slots[k]? = some x) ∧
    (g.overlaps a (a + L) = true →
      ∃ y w : Slot, (n.place L meter g).slots[k]? = some y ∧ (n.withdraw L meter g).slots[k]? = some w ∧
        y.inflow = x.inflow + (if role = .inflow then g.volumeIn a (a + L) else 0) ∧
        y.outflow = x.outflow + (if role = .outflow then g.volumeIn a (a + L) else 0) ∧
        w.inflow = x.inflow - (if role = .inflow then g.volumeIn a (a + L) else 0) ∧
        w.outflow = x.outflow - (if role = .outflow then g.volumeIn a (a + L) else 0) ∧
        (∀ c, x.covered[pos]? = some c → y.covered[pos]? = some (c + g.coverageIn a (a + L)) ∧
          w.covered[pos]? = some (c - g.coverageIn a (a + L))) ∧
        ∀ p, p ≠ pos → y.covered[p]? = x.covered[p]? ∧ w.covered[p]? = x.covered[p]?)) ∧
  ∀ (L meter : Nat) (n : Night) (old : Option Segment) (new : List Segment),
    (n.change L meter none new = (new.filter fun g => g.bad = none).foldl (fun x g => x.place L meter g) n) ∧
    (∀ g, n.change L meter (some g) new = (if g.bad = none then n.withdraw L meter g else n).change L meter none new) ∧
    ((∀ q ∈ n.required, q.meter ≠ meter) → n.change L meter old new = n) ∧
    { n.change L meter old new with slots := n.slots } = n ∧ (n.change L meter old new).slots.length = n.slots.length

/-! ### The Assessor and verdicts -/

/-- ASSESSOR_TAKE: the idle Assessor takes the head of its queue: a night without a run is skipped as NO_DATA and released;
any other becomes ASSESSING, a CLEAN one that is not complete INCOMPLETE, with its complete slots, MNF, run start and LNU
computed. An Assessor at work, or without a night, takes none. Taking none in those cases is the model's: log 3. -/
def Obligations.AssessorTakesTheHead : Prop :=
  ∀ s : State, s.link.resetLow = false →
    (s.assess.flight.isSome ∨ s.assess.queue = [] → exec .assessorTake s = .next s.afterwards) ∧
    ∀ r rest n e, s.assess = { queue := r :: rest, flight := none } → s.night r = some n → s.entry r.zone = some e →
      let L := s.settings.slotLength * 60
      let day := n.start / 86400
      (n.runs L = [] →
        exec .assessorTake s =
          .next ((State.recordSkip { s with assess := { queue := rest, flight := none } } r.zone .noData day).releaseNight
            r).quiesce.afterwards) ∧
      (∀ i mnf, n.minimum L = some (i, mnf) →
        ∃ u : State, exec .assessorTake s = .next u.afterwards ∧
          u.assess = { queue := rest,
                       flight := some { night := r, completeCount := (n.slots.filter fun x => x.covered.all fun c => c = L).length,
                                        mnf := mnf, runStart := i, lnu := e.lnu day ((day + s.clock.epoch) % 7) } } ∧
          { u with assess := s.assess } = s.setNight r (some
            { n with state := .assessing,
                     quality := if n.quality = .clean ∧ n.complete L = false then .incomplete else n.quality }))

/-- R98, with R95 and R97: a run is K consecutive complete slots, its rate the net inflow of its slots per hour; the MNF is the
least rate among the runs, given by the earliest run that has it. -/
def Obligations.MinimumIsTheEarliestLeastRate : Prop :=
  ∀ (L : Nat) (n : Night), 0 < n.runLength →
    (∀ i, i ∈ n.runs L ↔ i + n.runLength ≤ n.slots.length ∧ ∀ k, k < n.runLength →
      ∀ x, n.slots[i + k]? = some x → x.covered.all (fun c => c = L) = true) ∧
    (∀ i ∈ n.runs L,
      let xs := (n.slots.drop i).take n.runLength
      n.rate L i =
        max (-2147483647) (min ((((xs.map fun x => x.inflow).sum - (xs.map fun x => x.outflow).sum) * 3600).tdiv
          ((n.runLength * L : Nat) : Int)) 2147483647)) ∧
    (n.minimum L = none ↔ n.runs L = []) ∧
    ∀ i v, n.minimum L = some (i, v) →
      i ∈ n.runs L ∧ v = n.rate L i ∧ (∀ j ∈ n.runs L, v ≤ n.rate L j) ∧ (∀ j ∈ n.runs L, n.rate L j = v → i ≤ j) ∧
        i + n.runLength ≤ n.slots.length

/-- R101, with R100: the LNU is the property count times the per-property allowance plus the allowances of the user entries that
apply: those whose weekday set is absent or names the weekday, and whose valid-until day is absent or not past. With the
ranges of R8 it is at most 17235705. -/
def Obligations.AllowanceOfANight : Prop :=
  ∀ (e : ZoneEntry) (day weekday : Nat),
    e.lnu day weekday =
      e.properties * e.perProperty +
        ((e.users.filter fun u =>
          (match u.weekdays with
            | none => true
            | some w => w.testBit weekday) &&
          (match u.validUntil with
            | none => true
            | some v => decide (day ≤ v))).map fun u => u.allowance).sum ∧
    (e.properties ≤ 65535 → e.perProperty ≤ 255 → e.users.length ≤ 8 → (∀ u ∈ e.users, u.allowance ≤ 65535) →
      e.lnu day weekday ≤ 17235705)

/-- ASSESSMENT_COMPLETION: the result record of R103 and R104 is handed to the Verdict Unit, the night is released and the Assessor is
idle; without a night in flight nothing happens. Doing nothing without a night in flight is the model's: log 3. -/
def Obligations.CompletionHandsOverTheResult : Prop :=
  ∀ s : State, s.link.resetLow = false →
    (s.assess.flight = none → exec .assessmentCompletion s = .next s.afterwards) ∧
    ∀ f n, s.assess.flight = some f → s.night f.night = some n →
      let v := (s.zone f.night.zone).verdict
      let clamp : Int → Int := fun x => max (-2147483647) (min x 2147483647)
      let nnf := clamp (f.mnf - f.lnu)
      let r : ResultRecord :=
        { zone := f.night.zone, survey := decide (f.night.desc = 2), day := n.start / 86400, slotCount := n.slotCount,
          completeCount := f.completeCount, quality := n.quality, mnf := f.mnf, runStart := f.runStart, lnu := f.lnu, nnf := nnf,
          baseline := v.baseline, excess := clamp (nnf - v.baseline), cusum := v.cusum, persistence := v.persistence,
          outcome := .notTested, verdict := v.state, lateCount := n.lateCount }
      exec .assessmentCompletion s =
        .next ((State.handleResult { s with assess := { s.assess with flight := none } } r).releaseNight f.night).quiesce.afterwards

/-- A result by the verdict state it finds (R113, R114, R119, R120, R130): learned, tested, waiting, discarded as HELD, recorded, or
written as a survey result with the test it would have had, with the flags it raises: a tested result RESULT, and VERDICT where the
verdict state changes or an alarm record is written (R112). What the test makes of the record, `w`, TestedResultSetsTheVerdict says. -/
def Obligations.ResultsByVerdictState : Prop :=
  ∀ (s : State) (r : ResultRecord) (e : ZoneEntry), s.entry r.zone = some e →
    let z := r.zone
    let v := (s.zone z).verdict
    let kept (o : TestOutcome) : ResultRecord :=
      { r with baseline := v.baseline, excess := max (-2147483647) (min (r.nnf - v.baseline) 2147483647), cusum := v.cusum,
               persistence := v.persistence, verdict := v.state, outcome := o }
    (r.survey = false →
      (v.state = .learning → r.quality ≠ .clean →
        s.handleResult r = (s.setVerdict z { v with last := some (kept .notTested) }).raise z .result) ∧
      (v.state = .learning → r.quality = .clean →
        let b := (v.baseline * (v.count : Int) + r.nnf).tdiv ((v.count : Int) + 1)
        (v.count + 1 < e.tests.learn →
          s.handleResult r =
            (s.setVerdict z { v with baseline := b, count := v.count + 1, last := some (kept .notTested) }).raise z .result) ∧
        (e.tests.learn ≤ v.count + 1 →
          s.handleResult r =
            ((s.setVerdict z { v with baseline := b, count := e.tests.learn, state := .normal,
                                      last := some { kept .notTested with verdict := .normal } }).raise z .result).raise z .verdict)) ∧
      ((v.state = .normal ∨ v.state = .suspect) → r.quality = .disturbed →
        s.handleResult r = (s.setVerdict z { v with last := some (kept .notTested) }).raise z .result) ∧
      ((v.state = .normal ∨ v.state = .suspect) → r.quality ≠ .disturbed →
        let w := v.handle e.tests r
        let changed : Bool := decide (w.state ≠ v.state ∨ (w.alarm.isSome ∧ w.alarm ≠ v.alarm))
        s.handleResult r = ((s.setVerdict z w).raise z .result).raiseIf changed z .verdict) ∧
      (v.state = .alarm → v.waiting = none → s.handleResult r = (s.setVerdict z { v with waiting := some r }).raise z .result) ∧
      (v.state = .alarm → v.waiting.isSome → s.handleResult r = s.recordSkip z .held r.day) ∧
      (v.state = .repair → s.handleResult r = (s.setVerdict z { v with last := some (kept .notTested) }).raise z .result)) ∧
    (r.survey = true → (v.state = .learning ∨ r.quality = .disturbed) →
      s.handleResult r = (s.setVerdict z { v with survey := some (kept .notTested) }).raise z .survey) ∧
    (r.survey = true → v.state ≠ .learning → r.quality ≠ .disturbed →
      let x := (kept .notTested).excess
      let c : Nat := if 0 < (v.cusum : Int) + x - e.tests.slack then (min ((v.cusum : Int) + x - e.tests.slack) 2147483647).toNat else 0
      let p : Nat := if (e.tests.burst : Int) ≤ x then min (v.persistence + 1) e.tests.persist else 0
      let o : TestOutcome :=
        if p = e.tests.persist then .burst
        else if e.tests.limit ≤ c then .creep
        else if (e.tests.burst : Int) ≤ x then .burst
        else .pass
      s.handleResult r =
        (s.setVerdict z { v with survey := some { kept o with cusum := c, persistence := p } }).raise z .survey)

/-- R115: the test of a result takes its excess E as NNF minus B, the excess R111 writes, and computes S and p from it. -/
def Obligations.TestComputesSAndP : Prop :=
  ∀ (t : Tests) (v : Verdict) (r : ResultRecord), (v.state = .normal ∨ v.state = .suspect) → r.quality ≠ .disturbed →
    let e : Int := max (-2147483647) (min (r.nnf - v.baseline) 2147483647)
    let w := v.handle t r
    w.last.map (fun x => x.excess) = some e ∧
    (0 < (v.cusum : Int) + e - t.slack → (w.cusum : Int) = min ((v.cusum : Int) + e - t.slack) 2147483647) ∧
    ((v.cusum : Int) + e - t.slack ≤ 0 → w.cusum = 0) ∧
    ((t.burst : Int) ≤ e → w.persistence = if t.persist < v.persistence + 1 then t.persist else v.persistence + 1) ∧
    (e < (t.burst : Int) → w.persistence = 0)

/-- R116 to R118 for a tested result in NORMAL or SUSPECT: the verdict state and outcome by the first row that holds, the alarm record
of an ALARM, and the baseline that follows a CLEAN night which leaves the zone NORMAL. -/
def Obligations.TestedResultSetsTheVerdict : Prop :=
  ∀ (t : Tests) (v : Verdict) (r : ResultRecord), (v.state = .normal ∨ v.state = .suspect) → r.quality ≠ .disturbed →
    let e : Int := max (-2147483647) (min (r.nnf - v.baseline) 2147483647)
    let c := nextCusum t v.cusum e
    let p := nextPersistence t v.persistence e
    let last (st : VerdictState) (o : TestOutcome) : Option ResultRecord :=
      some { r with baseline := v.baseline, excess := e, cusum := c, persistence := p, verdict := st, outcome := o }
    let alarm (cause : AlarmCause) : Option AlarmRecord :=
      some { cause := cause, day := r.day, nnf := r.nnf, excess := e, baseline := v.baseline, cusum := c, persistence := p }
    (p = t.persist →
      v.handle t r = { v with cusum := c, persistence := p, state := .alarm, alarm := alarm .burst, last := last .alarm .burst }) ∧
    (p ≠ t.persist → t.limit ≤ c →
      v.handle t r = { v with cusum := c, persistence := p, state := .alarm, alarm := alarm .creep, last := last .alarm .creep }) ∧
    (p ≠ t.persist → c < t.limit → (t.burst : Int) ≤ e →
      v.handle t r = { v with cusum := c, persistence := p, state := .suspect, last := last .suspect .burst }) ∧
    (p ≠ t.persist → c < t.limit → e < (t.burst : Int) →
      v.handle t r =
        { v with cusum := c, persistence := p, state := .normal, last := last .normal .pass,
                 baseline := if r.quality = .clean then v.baseline + (r.nnf - v.baseline).tdiv (2 ^ t.weight) else v.baseline })

/-- DISMISS, CONFIRM and REPAIRED (R121 to R125): each in the verdict state it is taken in, WRONG_STATE in any other, ABSORB with CONFIRM
or REPAIRED refused; a waiting result is handled within the act in the state the disposition left.
The layout of the settle interval in the reply is the model's: log 12. -/
def Obligations.DispositionsEndAnAlarm : Prop :=
  ∀ (tag : Byte) (z : Nat) (absorb : Bool) (s : State) (e : ZoneEntry), s.ready → 1 ≤ z → z ≤ 256 → s.entry z = some e →
    let hd : Held := { kind := 0x18, tag := tag, request := .dispose z 0 absorb }
    let hc : Held := { kind := 0x18, tag := tag, request := .dispose z 1 absorb }
    let hr : Held := { kind := 0x18, tag := tag, request := .dispose z 2 absorb }
    let v := (s.zone z).verdict
    let release (x : Verdict) : Verdict := match v.waiting with
      | none => x
      | some r => { x with waiting := none }.handle e.tests r
    let put (x : State) (y : Verdict) : State := ((x.setVerdict z y).raiseIf v.waiting.isSome z .result).raise z .verdict
    (v.state ≠ .alarm →
      exec (.dismiss tag z absorb) s = .next ((s.executing hd).answer hd .wrongState [] false) ∧
      exec (.confirm tag z absorb) s = .next ((s.executing hc).answer hc .wrongState [] false)) ∧
    (v.state = .alarm →
      (∀ a, v.alarm = some a →
        let y := release { v with baseline := if absorb then a.nnf else v.baseline, persistence := 0, cusum := 0, alarm := none,
                                  state := .normal }
        exec (.dismiss tag z absorb) s = .next ((put (s.executing hd) y).answer hd .ok [byte y.state.code] false)) ∧
      (absorb = true → exec (.confirm tag z absorb) s = .next ((s.executing hc).answer hc .badValue [] false)) ∧
      (absorb = false →
        let y := release { v with state := .repair }
        exec (.confirm tag z absorb) s = .next ((put (s.executing hc) y).answer hc .ok [byte y.state.code] false))) ∧
    (v.state ≠ .repair → exec (.repaired tag z absorb) s = .next ((s.executing hr).answer hr .wrongState [] false)) ∧
    (v.state = .repair →
      (absorb = true → exec (.repaired tag z absorb) s = .next ((s.executing hr).answer hr .badValue [] false)) ∧
      (absorb = false →
        let y : Verdict := { v with persistence := 0, cusum := 0, alarm := none, state := .normal }
        let u := ((s.executing hr).setVerdict z y).raise z .verdict
        (e.tests.settleLength = 0 →
          exec (.repaired tag z absorb) s =
            .next (u.answer hr .ok
              ([1] ++
                (match e.settle with
                  | none => List.replicate 9 0
                  | some p => [1] ++ le 4 p.start ++ le 4 p.stop)) false)) ∧
        (0 < e.tests.settleLength →
          let p : Span := { start := s.clock.time, stop := min (s.clock.time + 60 * e.tests.settleLength) 4294967295 }
          exec (.repaired tag z absorb) s =
            .next ((u.widenSettle z p).answer hr .ok ([1] ++ [1] ++ le 4 (Span.hull e.settle p).start ++ le 4 (Span.hull e.settle p).stop) false))))

/-- REBASELINE and BASELINE PUT replace the verdict record's fields their rules name, and raise VERDICT where the state changes. -/
def Obligations.BaselinesAreReplaced : Prop :=
  ∀ (tag : Byte) (z : Nat) (s : State) (e : ZoneEntry), s.ready → 1 ≤ z → z ≤ 256 → s.entry z = some e →
    let v := (s.zone z).verdict
    (let h : Held := { kind := 0x19, tag := tag, request := .rebaseline z }
     exec (.rebaseline tag z) s =
      .next ((((s.executing h).setVerdict z
        { v with baseline := 0, count := 0, cusum := 0, persistence := 0, waiting := none, alarm := none, state := .learning }).raiseIf
          (v.state != .learning) z .verdict).answer h .ok [] false)) ∧
    ∀ b n k, requestInRange (.baselinePut z b n k) = true →
      let h : Held := { kind := 0x1B, tag := tag, request := .baselinePut z b n k }
      let count := if e.tests.learn < n then e.tests.learn else n
      let st : VerdictState := if count = e.tests.learn then .normal else .learning
      (v.state = .alarm ∨ v.state = .repair →
        exec (.baselinePut tag z b n k) s = .next ((s.executing h).answer h .wrongState [] false)) ∧
      (v.state ≠ .alarm → v.state ≠ .repair →
        exec (.baselinePut tag z b n k) s =
          .next ((((s.executing h).setVerdict z { v with baseline := b, count := count, cusum := k, persistence := 0, state := st }).raiseIf
            (v.state != st) z .verdict).answer h .ok (leSigned b ++ le 1 count ++ le 4 k ++ [0] ++ le 1 st.code) false))

/-- R129: BASELINE GET, in COLD and in RUN: NO_SUCH for an UNDEFINED zone, and else OK with B, n, S, p and the verdict state; it changes
nothing. -/
def Obligations.BaselineGetReports : Prop :=
  ∀ (tag : Byte) (z : Nat) (s : State), s.ready → 1 ≤ z → z ≤ 256 →
    let h : Held := { kind := 0x1A, tag := tag, request := .baselineGet z }
    let v := (s.zone z).verdict
    (s.entry z = none → exec (.baselineGet tag z) s = .next ((s.executing h).answer h .noSuch [] false)) ∧
    ((s.entry z).isSome →
      exec (.baselineGet tag z) s =
        .next ((s.executing h).answer h .ok
          (leSigned v.baseline ++ le 1 v.count ++ le 4 v.cusum ++ le 1 v.persistence ++ le 1 v.state.code) false))

/-- RESULT GET and ZONE STATUS of a defined zone report and change nothing. The result record is the 38 bytes of R164, the zone's fields
those of R144 in its order; the codes in these and the other frames are those of the tables of R161.
The layout of ZONE STATUS, and the code of an alarm's cause, are in part the model's: log 12. -/
def Obligations.ResultsAndZonesAreReported : Prop :=
  (∀ (tag : Byte) (z : Nat) (s : State) (e : ZoneEntry), s.ready → 1 ≤ z → z ≤ 256 → s.entry z = some e →
    let record (x : ResultRecord) : List Byte :=
      le 2 x.zone ++ [if x.survey then 1 else 0] ++ le 2 x.day ++ [byte x.slotCount] ++ [byte x.completeCount] ++ [byte x.quality.code] ++
        leSigned x.mnf ++ [byte x.runStart] ++ le 4 x.lnu ++ leSigned x.nnf ++ leSigned x.baseline ++ leSigned x.excess ++ le 4 x.cusum ++
        [byte x.persistence] ++ [byte x.outcome.code] ++ [byte x.verdict.code] ++ le 2 x.lateCount
    let night (d : Nat) : List Byte := match s.night { zone := z, desc := d } with
      | none => List.replicate 22 0
      | some n =>
        [1] ++ [if d = 2 then 1 else 0] ++ [byte n.state.code] ++ le 2 (n.start / 86400) ++ le 4 n.start ++ [byte n.slotCount] ++
          le 4 n.deadline ++
          (match n.mark with
            | none => [0, 0, 0, 0, 0]
            | some m => 1 :: le 4 (m % 4294967296)) ++
          [byte n.quality.code] ++ le 2 n.lateCount
    let v := (s.zone z).verdict
    let f := (s.zone z).flags
    let fields : List Byte :=
      [if e.active then 2 else 1] ++
        (match e.window with
          | none => [0, 0, 0, 0]
          | some w => [1] ++ le 2 w.start ++ [byte w.slots]) ++
        [byte e.runLength] ++ le 2 e.delay ++
        (match e.settle with
          | none => List.replicate 9 0
          | some p => [1] ++ le 4 p.start ++ le 4 p.stop) ++
        [byte v.state.code] ++ leSigned v.baseline ++ [byte v.count] ++ le 4 v.cusum ++ [byte v.persistence] ++
        (match v.alarm with
          | none => List.replicate 21 0
          | some a =>
            [1] ++ [byte a.cause.code] ++ le 2 a.day ++ leSigned a.nnf ++ leSigned a.excess ++ leSigned a.baseline ++ le 4 a.cusum ++
              [byte a.persistence]) ++
        [if v.last.isSome then 1 else 0] ++ [if v.waiting.isSome then 1 else 0] ++ [if v.survey.isSome then 1 else 0] ++
        (match (s.zone z).skip with
          | none => [0, 0, 0, 0]
          | some k => [byte k.cause.code] ++ le 2 k.day ++ [byte k.count]) ++
        [byte ((if f.result then 1 else 0) + (if f.verdict then 2 else 0) + (if f.skip then 4 else 0) + if f.survey then 8 else 0)] ++
        [if z ∈ s.notices.queue then 1 else 0] ++ [if (s.zone z).blocked then 1 else 0] ++ night 0 ++ night 1 ++ night 2
    (∀ x, (record x).length = 38) ∧
    (∀ selector, selector ≤ 2 →
      let h : Held := { kind := 0x1C, tag := tag, request := .resultGet z selector }
      let v := (s.zone z).verdict
      let r := if selector = 0 then v.last else if selector = 1 then v.waiting else v.survey
      exec (.resultGet tag z selector) s =
        .next ((s.executing h).answer h .ok
          (match r with
            | none => byte selector :: 0 :: List.replicate 38 0
            | some x => byte selector :: 1 :: record x) false)) ∧
    (let h : Held := { kind := 0x1D, tag := tag, request := .zoneStatus z }
     exec (.zoneStatus tag z) s = .next ((s.executing h).answer h .ok fields false))) ∧
  [Status.ok, .badLength, .badValue, .unknownKind, .notReady, .busy, .wrongState, .noSuch, .full, .duplicate, .late, .idle].map
      Status.code = [0, 1, 2, 3, 4, 5, 6, 7, 8, 9, 10, 11] ∧
  [ReadingOutcome.accepted, .queueFull, .noSuchMeter, .wrongKind, .badValue, .future, .notReady].map ReadingOutcome.code =
    [0, 1, 2, 3, 4, 5, 6] ∧
  [Quality.clean, .spike, .noisy, .conflict, .disturbed, .incomplete].map Quality.code = [0, 1, 2, 3, 4, 5] ∧
  [TestOutcome.notTested, .pass, .burst, .creep].map TestOutcome.code = [0, 1, 2, 3] ∧
  [AlarmCause.burst, .creep].map AlarmCause.code = [2, 3] ∧
  [VerdictState.learning, .normal, .suspect, .alarm, .repair].map VerdictState.code = [0, 1, 2, 3, 4] ∧
  [NightState.armed, .opened, .closing, .draining, .queued, .assessing].map NightState.code = [1, 2, 3, 4, 5, 6] ∧
  [SkipCause.pool, .backlog, .clockJump, .stopped, .noData, .held].map SkipCause.code = [1, 2, 3, 4, 5, 6] ∧
  [ExceptionCode.stale, .conflict, .spike, .late, .noisy].map ExceptionCode.code = [1, 2, 3, 4, 5] ∧
  [EndCause.done, .stopped, .gone, .flushed].map EndCause.code = [0, 1, 2, 3] ∧
  [RejectCause.charError, .check, .timeout, .tooLong, .overrun].map RejectCause.code = [1, 2, 3, 4, 5] ∧
  [MeterKind.bulk, .bidir, .pulse].map MeterKind.code = [0, 1, 2] ∧
  [10000, 100000, 1000000, 10000000, 100000000, 1000000000, 65536, 4294967296].map modulusCode = [0, 1, 2, 3, 4, 5, 6, 7] ∧
  [1, 10, 100, 1000, 10000].map scaleCode = [0, 1, 2, 3, 4] ∧ [Role.inflow, .outflow].map Role.code = [0, 1] ∧
  [NoticeMode.grouped, .single].map NoticeMode.code = [0, 1] ∧
  [Rate.b9600, .b38400, .b115200, .b460800].map Rate.code = [0, 1, 2, 3] ∧
  [Parity.none, .even, .odd].map Parity.code = [0, 1, 2] ∧
  (descriptorCode none = 0 ∧ ∀ n : Night, descriptorCode (some n) = n.state.code) ∧
  ∀ (a b : Nat) (r : NightRef) (held : Bool),
    (StreamBody.once a b).code = 0 ∧ (StreamBody.step a b).code = 0 ∧ (StreamBody.profile r a held).code = 1

/-! ### Streams -/

/-- ROLLCALL, ROLLCALL STOP and PROFILE: BUSY with a stream in flight, IDLE without one to stop, and else the stream each starts
or ends. ROLLCALL NEXT: IDLE without a stream, WRONG_STATE with one that is not STEP; with a STEP roll call the summary of
the next defined zone of the range, or the end mark where none is left.
The reply of PROFILE is the night's header, its fields those of R141 in its order.
The order of PROFILE's checks, and the cause an end frame takes, are the
model's: log 14, log 16. So is tag 0 for a required meter that is not defined: log 25. -/
def Obligations.StreamsAreCommanded : Prop :=
  (∀ (tag : Byte) (s : State), s.ready →
     (∀ first last mode, requestInRange (.rollcall first last mode) = true →
       let h : Held := { kind := 0x1E, tag := tag, request := .rollcall first last mode }
       let n := if first ≤ last then last - first + 1 else 257 - first + last
       (s.stream.isSome → exec (.rollcall tag first last mode) s = .next ((s.executing h).answer h .busy [] false)) ∧
       (s.stream = none →
         exec (.rollcall tag first last mode) s =
           .next (State.answer
             { s.executing h with
               stream := some { body := if mode = 0 then .once first n else .step first n, phase := .awaitReply, seq := 1, sent := 0 } }
             h .ok (le 2 first ++ le 2 last ++ le 1 mode) (decide (mode = 0))))) ∧
     (let h : Held := { kind := 0x20, tag := tag, request := .rollcallStop }
      (s.stream = none → exec (.rollcallStop tag) s = .next ((s.executing h).answer h .idle [] false)) ∧
      ∀ st, s.stream = some st →
       (∀ next left, st.body = .step next left →
         exec (.rollcallStop tag) s = .next (State.answer { s.executing h with stream := none } h .ok [0] false)) ∧
       ((∀ next left, st.body ≠ .step next left) →
         exec (.rollcallStop tag) s =
           .next (State.answer { s.executing h with stream := some { st with phase := .ending .stopped } } h .ok
             [match st.body with | .profile _ _ _ => 1 | _ => 0] false))) ∧
     ∀ z d, requestInRange (.profile z d) = true → (s.entry z).isSome →
       let h : Held := { kind := 0x21, tag := tag, request := .profile z d }
       let r : NightRef := { zone := z, desc := d }
       (s.night r = none → exec (.profile tag z d) s = .next ((s.executing h).answer h .noSuch [] false)) ∧
       ∀ n, s.night r = some n →
         let header : List Byte :=
           le 2 z ++ [byte d] ++ [if d = 2 then (1 : Byte) else 0] ++ le 2 (n.start / 86400) ++ le 4 n.start ++ [byte n.slotCount] ++
             [byte n.runLength] ++ le 4 n.deadline ++ [byte n.state.code] ++
             (match n.mark with
               | none => ([0, 0, 0, 0, 0] : List Byte)
               | some m => 1 :: le 4 (m % 4294967296)) ++
             [byte n.quality.code] ++ le 2 n.lateCount ++ [byte n.required.length] ++
             n.required.flatMap fun q =>
               le 2 q.meter ++
                 le 4 (match s.meter q.meter with
                   | none => 0
                   | some m => m.tag) ++
                 [match q.role with
                   | .inflow => (0 : Byte)
                   | .outflow => 1]
         (s.stream.isSome → exec (.profile tag z d) s = .next ((s.executing h).answer h .busy [] false)) ∧
         (s.stream = none → n.state = .armed → exec (.profile tag z d) s = .next ((s.executing h).answer h .wrongState [] false)) ∧
         (s.stream = none → n.state ≠ .armed →
           exec (.profile tag z d) s =
             .next (State.answer
               { s.executing h with
                 stream := some { body := .profile r n.slotCount true, phase := .awaitReply, seq := 1, sent := 0 } }
               h .ok header true))) ∧
  (∀ (tag : Byte) (s : State), s.ready →
     let h : Held := { kind := 0x1F, tag := tag, request := .rollcallNext }
     (s.stream = none → exec (.rollcallNext tag) s = .next ((s.executing h).answer h .idle [] false)) ∧
     ∀ st, s.stream = some st →
       ((∀ next left, st.body ≠ .step next left) → exec (.rollcallNext tag) s = .next ((s.executing h).answer h .wrongState [] false)) ∧
       ∀ first left, st.body = .step first left → 1 ≤ first → first ≤ 256 → left ≤ 256 →
         let zoneAt (k : Nat) : Nat := (first + k - 1) % 256 + 1
         ((∀ k, k < left → s.entry (zoneAt k) = none) →
           exec (.rollcallNext tag) s =
             .next (State.answer { s.executing h with stream := none } h .ok (1 :: List.replicate 19 0) false)) ∧
         ∀ k, k < left → (s.entry (zoneAt k)).isSome → (∀ j, j < k → s.entry (zoneAt j) = none) →
           exec (.rollcallNext tag) s =
             .next (State.answer
               { s.executing h with
                 stream := some { st with body := .step (zoneAt (k + 1)) (left - k - 1), sent := st.sent + 1 } }
               h .ok (0 :: (s.zone (zoneAt k)).summary (zoneAt k)) false))

/-! ### Invariants -/

/-- Every chain stays strictly increasing in timestamp and at most 8 readings long (R50). -/
def Obligations.ChainsStayOrdered : Prop := ∀ s t : State, s.chainsOrdered → step s = .next t → t.chainsOrdered

/-- The Intake Queue keeps its limits and its order of issue (R35, R36), the notice queue never holds the same entry twice
(R132), and the reject queue never holds more than four (R153); the nights never hold more slot records than the pool has (R74), nor
the regular nights more than the pool less the survey reserve (R75). -/
def Obligations.QueuesKeepTheirLimits : Prop :=
  ∀ s t : State, step s = .next t →
    (s.intakeBounded → t.intakeBounded) ∧ (s.noticesDistinct → t.noticesDistinct) ∧ (s.rejectsBounded → t.rejectsBounded) ∧
    (s.canonical → s.poolBounded → t.poolBounded) ∧ (s.canonical → s.reserveKept → t.reserveKept)

/-- A zone's waiting result is present only while its verdict state is ALARM (R110). -/
def Obligations.WaitingOnlyInAlarm : Prop := ∀ s t : State, s.waitingOnlyInAlarm → step s = .next t → t.waitingOnlyInAlarm

/-- The tables of zones, meters and channels stay in canonical form. The form is the model's: log 11. -/
def Obligations.TablesStayCanonical : Prop := ∀ s t : State, s.canonical → step s = .next t → t.canonical

/-- A free line has nothing offered: what could start has started (R154). -/
def Obligations.FreeLineIsQuiet : Prop := ∀ s t : State, s.quiet → step s = .next t → t.quiet

/-- In RUN the site time does not decrease and the set flag and the epoch weekday stay, but for a power-on and a reset (R19). -/
def Obligations.SiteTimeNeverDecreases : Prop :=
  ∀ (s t : State), s.clock.running = true →
    (∀ b p rest, s.pending ≠ .powerOn b p :: rest) → (∀ p rest, s.pending ≠ .resetRelease p :: rest) → step s = .next t →
    s.clock.time ≤ t.clock.time ∧ t.clock.running = true ∧ t.clock.epoch = s.clock.epoch
end

