-- ==== Sys2Proof/Laws/State.lean ====
section
/-! SUPPORT. Projections of State's updates: what each plain update leaves as it was. -/

namespace Sys2Proof.Machine

@[simp] theorem setZone_meters (s : State) (z : Nat) (v : Zone) : (s.setZone z v).meters = s.meters := rfl
@[simp] theorem setZone_clock (s : State) (z : Nat) (v : Zone) : (s.setZone z v).clock = s.clock := rfl
@[simp] theorem setZone_settings (s : State) (z : Nat) (v : Zone) : (s.setZone z v).settings = s.settings := rfl
@[simp] theorem setZone_channels (s : State) (z : Nat) (v : Zone) : (s.setZone z v).channels = s.channels := rfl
@[simp] theorem setZone_intake (s : State) (z : Nat) (v : Zone) : (s.setZone z v).intake = s.intake := rfl
@[simp] theorem setZone_chain (s : State) (z : Nat) (v : Zone) : (s.setZone z v).chain = s.chain := rfl
@[simp] theorem setZone_assess (s : State) (z : Nat) (v : Zone) : (s.setZone z v).assess = s.assess := rfl
@[simp] theorem setZone_notices (s : State) (z : Nat) (v : Zone) : (s.setZone z v).notices = s.notices := rfl
@[simp] theorem setZone_stream (s : State) (z : Nat) (v : Zone) : (s.setZone z v).stream = s.stream := rfl
@[simp] theorem setZone_link (s : State) (z : Nat) (v : Zone) : (s.setZone z v).link = s.link := rfl
@[simp] theorem setZone_pending (s : State) (z : Nat) (v : Zone) : (s.setZone z v).pending = s.pending := rfl
@[simp] theorem setZone_world (s : State) (z : Nat) (v : Zone) : (s.setZone z v).world = s.world := rfl
@[simp] theorem setZone_choices (s : State) (z : Nat) (v : Zone) : (s.setZone z v).choices = s.choices := rfl

@[simp] theorem setEntry_meters (s : State) (z : Nat) (e : Option ZoneEntry) : (s.setEntry z e).meters = s.meters := rfl
@[simp] theorem setEntry_clock (s : State) (z : Nat) (e : Option ZoneEntry) : (s.setEntry z e).clock = s.clock := rfl
@[simp] theorem setEntry_settings (s : State) (z : Nat) (e : Option ZoneEntry) : (s.setEntry z e).settings = s.settings := rfl
@[simp] theorem setEntry_channels (s : State) (z : Nat) (e : Option ZoneEntry) : (s.setEntry z e).channels = s.channels := rfl
@[simp] theorem setEntry_intake (s : State) (z : Nat) (e : Option ZoneEntry) : (s.setEntry z e).intake = s.intake := rfl
@[simp] theorem setEntry_chain (s : State) (z : Nat) (e : Option ZoneEntry) : (s.setEntry z e).chain = s.chain := rfl
@[simp] theorem setEntry_assess (s : State) (z : Nat) (e : Option ZoneEntry) : (s.setEntry z e).assess = s.assess := rfl
@[simp] theorem setEntry_notices (s : State) (z : Nat) (e : Option ZoneEntry) : (s.setEntry z e).notices = s.notices := rfl
@[simp] theorem setEntry_stream (s : State) (z : Nat) (e : Option ZoneEntry) : (s.setEntry z e).stream = s.stream := rfl
@[simp] theorem setEntry_link (s : State) (z : Nat) (e : Option ZoneEntry) : (s.setEntry z e).link = s.link := rfl
@[simp] theorem setEntry_pending (s : State) (z : Nat) (e : Option ZoneEntry) : (s.setEntry z e).pending = s.pending := rfl
@[simp] theorem setEntry_world (s : State) (z : Nat) (e : Option ZoneEntry) : (s.setEntry z e).world = s.world := rfl
@[simp] theorem setEntry_choices (s : State) (z : Nat) (e : Option ZoneEntry) : (s.setEntry z e).choices = s.choices := rfl

@[simp] theorem setVerdict_meters (s : State) (z : Nat) (v : Verdict) : (s.setVerdict z v).meters = s.meters := rfl
@[simp] theorem setVerdict_clock (s : State) (z : Nat) (v : Verdict) : (s.setVerdict z v).clock = s.clock := rfl
@[simp] theorem setVerdict_settings (s : State) (z : Nat) (v : Verdict) : (s.setVerdict z v).settings = s.settings := rfl
@[simp] theorem setVerdict_channels (s : State) (z : Nat) (v : Verdict) : (s.setVerdict z v).channels = s.channels := rfl
@[simp] theorem setVerdict_intake (s : State) (z : Nat) (v : Verdict) : (s.setVerdict z v).intake = s.intake := rfl
@[simp] theorem setVerdict_chain (s : State) (z : Nat) (v : Verdict) : (s.setVerdict z v).chain = s.chain := rfl
@[simp] theorem setVerdict_assess (s : State) (z : Nat) (v : Verdict) : (s.setVerdict z v).assess = s.assess := rfl
@[simp] theorem setVerdict_notices (s : State) (z : Nat) (v : Verdict) : (s.setVerdict z v).notices = s.notices := rfl
@[simp] theorem setVerdict_stream (s : State) (z : Nat) (v : Verdict) : (s.setVerdict z v).stream = s.stream := rfl
@[simp] theorem setVerdict_link (s : State) (z : Nat) (v : Verdict) : (s.setVerdict z v).link = s.link := rfl
@[simp] theorem setVerdict_pending (s : State) (z : Nat) (v : Verdict) : (s.setVerdict z v).pending = s.pending := rfl
@[simp] theorem setVerdict_world (s : State) (z : Nat) (v : Verdict) : (s.setVerdict z v).world = s.world := rfl
@[simp] theorem setVerdict_choices (s : State) (z : Nat) (v : Verdict) : (s.setVerdict z v).choices = s.choices := rfl

@[simp] theorem setNight_meters (s : State) (r : NightRef) (n : Option Night) : (s.setNight r n).meters = s.meters := rfl
@[simp] theorem setNight_clock (s : State) (r : NightRef) (n : Option Night) : (s.setNight r n).clock = s.clock := rfl
@[simp] theorem setNight_settings (s : State) (r : NightRef) (n : Option Night) : (s.setNight r n).settings = s.settings := rfl
@[simp] theorem setNight_channels (s : State) (r : NightRef) (n : Option Night) : (s.setNight r n).channels = s.channels := rfl
@[simp] theorem setNight_intake (s : State) (r : NightRef) (n : Option Night) : (s.setNight r n).intake = s.intake := rfl
@[simp] theorem setNight_chain (s : State) (r : NightRef) (n : Option Night) : (s.setNight r n).chain = s.chain := rfl
@[simp] theorem setNight_assess (s : State) (r : NightRef) (n : Option Night) : (s.setNight r n).assess = s.assess := rfl
@[simp] theorem setNight_notices (s : State) (r : NightRef) (n : Option Night) : (s.setNight r n).notices = s.notices := rfl
@[simp] theorem setNight_stream (s : State) (r : NightRef) (n : Option Night) : (s.setNight r n).stream = s.stream := rfl
@[simp] theorem setNight_link (s : State) (r : NightRef) (n : Option Night) : (s.setNight r n).link = s.link := rfl
@[simp] theorem setNight_pending (s : State) (r : NightRef) (n : Option Night) : (s.setNight r n).pending = s.pending := rfl
@[simp] theorem setNight_world (s : State) (r : NightRef) (n : Option Night) : (s.setNight r n).world = s.world := rfl
@[simp] theorem setNight_choices (s : State) (r : NightRef) (n : Option Night) : (s.setNight r n).choices = s.choices := rfl

@[simp] theorem putMeter_zones (s : State) (i : Nat) (m : Meter) : (s.putMeter i m).zones = s.zones := rfl
@[simp] theorem putMeter_clock (s : State) (i : Nat) (m : Meter) : (s.putMeter i m).clock = s.clock := rfl
@[simp] theorem putMeter_settings (s : State) (i : Nat) (m : Meter) : (s.putMeter i m).settings = s.settings := rfl
@[simp] theorem putMeter_channels (s : State) (i : Nat) (m : Meter) : (s.putMeter i m).channels = s.channels := rfl
@[simp] theorem putMeter_intake (s : State) (i : Nat) (m : Meter) : (s.putMeter i m).intake = s.intake := rfl
@[simp] theorem putMeter_chain (s : State) (i : Nat) (m : Meter) : (s.putMeter i m).chain = s.chain := rfl
@[simp] theorem putMeter_assess (s : State) (i : Nat) (m : Meter) : (s.putMeter i m).assess = s.assess := rfl
@[simp] theorem putMeter_notices (s : State) (i : Nat) (m : Meter) : (s.putMeter i m).notices = s.notices := rfl
@[simp] theorem putMeter_stream (s : State) (i : Nat) (m : Meter) : (s.putMeter i m).stream = s.stream := rfl
@[simp] theorem putMeter_link (s : State) (i : Nat) (m : Meter) : (s.putMeter i m).link = s.link := rfl
@[simp] theorem putMeter_pending (s : State) (i : Nat) (m : Meter) : (s.putMeter i m).pending = s.pending := rfl
@[simp] theorem putMeter_world (s : State) (i : Nat) (m : Meter) : (s.putMeter i m).world = s.world := rfl
@[simp] theorem putMeter_choices (s : State) (i : Nat) (m : Meter) : (s.putMeter i m).choices = s.choices := rfl

@[simp] theorem delMeter_zones (s : State) (i : Nat) : (s.delMeter i).zones = s.zones := rfl
@[simp] theorem delMeter_clock (s : State) (i : Nat) : (s.delMeter i).clock = s.clock := rfl
@[simp] theorem delMeter_settings (s : State) (i : Nat) : (s.delMeter i).settings = s.settings := rfl
@[simp] theorem delMeter_channels (s : State) (i : Nat) : (s.delMeter i).channels = s.channels := rfl
@[simp] theorem delMeter_intake (s : State) (i : Nat) : (s.delMeter i).intake = s.intake := rfl
@[simp] theorem delMeter_chain (s : State) (i : Nat) : (s.delMeter i).chain = s.chain := rfl
@[simp] theorem delMeter_assess (s : State) (i : Nat) : (s.delMeter i).assess = s.assess := rfl
@[simp] theorem delMeter_notices (s : State) (i : Nat) : (s.delMeter i).notices = s.notices := rfl
@[simp] theorem delMeter_stream (s : State) (i : Nat) : (s.delMeter i).stream = s.stream := rfl
@[simp] theorem delMeter_link (s : State) (i : Nat) : (s.delMeter i).link = s.link := rfl
@[simp] theorem delMeter_pending (s : State) (i : Nat) : (s.delMeter i).pending = s.pending := rfl
@[simp] theorem delMeter_world (s : State) (i : Nat) : (s.delMeter i).world = s.world := rfl
@[simp] theorem delMeter_choices (s : State) (i : Nat) : (s.delMeter i).choices = s.choices := rfl

@[simp] theorem setChannel_zones (s : State) (c : Nat) (v : Channel) : (s.setChannel c v).zones = s.zones := rfl
@[simp] theorem setChannel_meters (s : State) (c : Nat) (v : Channel) : (s.setChannel c v).meters = s.meters := rfl
@[simp] theorem setChannel_clock (s : State) (c : Nat) (v : Channel) : (s.setChannel c v).clock = s.clock := rfl
@[simp] theorem setChannel_settings (s : State) (c : Nat) (v : Channel) : (s.setChannel c v).settings = s.settings := rfl
@[simp] theorem setChannel_intake (s : State) (c : Nat) (v : Channel) : (s.setChannel c v).intake = s.intake := rfl
@[simp] theorem setChannel_chain (s : State) (c : Nat) (v : Channel) : (s.setChannel c v).chain = s.chain := rfl
@[simp] theorem setChannel_assess (s : State) (c : Nat) (v : Channel) : (s.setChannel c v).assess = s.assess := rfl
@[simp] theorem setChannel_notices (s : State) (c : Nat) (v : Channel) : (s.setChannel c v).notices = s.notices := rfl
@[simp] theorem setChannel_stream (s : State) (c : Nat) (v : Channel) : (s.setChannel c v).stream = s.stream := rfl
@[simp] theorem setChannel_link (s : State) (c : Nat) (v : Channel) : (s.setChannel c v).link = s.link := rfl
@[simp] theorem setChannel_pending (s : State) (c : Nat) (v : Channel) : (s.setChannel c v).pending = s.pending := rfl
@[simp] theorem setChannel_world (s : State) (c : Nat) (v : Channel) : (s.setChannel c v).world = s.world := rfl
@[simp] theorem setChannel_choices (s : State) (c : Nat) (v : Channel) : (s.setChannel c v).choices = s.choices := rfl

@[simp] theorem enqueue_zones (s : State) (i : Nat) (r : Reading) (o : Origin) : (s.enqueue i r o).zones = s.zones := rfl
@[simp] theorem enqueue_meters (s : State) (i : Nat) (r : Reading) (o : Origin) : (s.enqueue i r o).meters = s.meters := rfl
@[simp] theorem enqueue_clock (s : State) (i : Nat) (r : Reading) (o : Origin) : (s.enqueue i r o).clock = s.clock := rfl
@[simp] theorem enqueue_settings (s : State) (i : Nat) (r : Reading) (o : Origin) : (s.enqueue i r o).settings = s.settings := rfl
@[simp] theorem enqueue_channels (s : State) (i : Nat) (r : Reading) (o : Origin) : (s.enqueue i r o).channels = s.channels := rfl
@[simp] theorem enqueue_chain (s : State) (i : Nat) (r : Reading) (o : Origin) : (s.enqueue i r o).chain = s.chain := rfl
@[simp] theorem enqueue_assess (s : State) (i : Nat) (r : Reading) (o : Origin) : (s.enqueue i r o).assess = s.assess := rfl
@[simp] theorem enqueue_notices (s : State) (i : Nat) (r : Reading) (o : Origin) : (s.enqueue i r o).notices = s.notices := rfl
@[simp] theorem enqueue_stream (s : State) (i : Nat) (r : Reading) (o : Origin) : (s.enqueue i r o).stream = s.stream := rfl
@[simp] theorem enqueue_link (s : State) (i : Nat) (r : Reading) (o : Origin) : (s.enqueue i r o).link = s.link := rfl
@[simp] theorem enqueue_pending (s : State) (i : Nat) (r : Reading) (o : Origin) : (s.enqueue i r o).pending = s.pending := rfl
@[simp] theorem enqueue_world (s : State) (i : Nat) (r : Reading) (o : Origin) : (s.enqueue i r o).world = s.world := rfl
@[simp] theorem enqueue_choices (s : State) (i : Nat) (r : Reading) (o : Origin) : (s.enqueue i r o).choices = s.choices := rfl

@[simp] theorem dequeueWhere_zones (s : State) (p : Waiting → Bool) : (s.dequeueWhere p).zones = s.zones := rfl
@[simp] theorem dequeueWhere_meters (s : State) (p : Waiting → Bool) : (s.dequeueWhere p).meters = s.meters := rfl
@[simp] theorem dequeueWhere_clock (s : State) (p : Waiting → Bool) : (s.dequeueWhere p).clock = s.clock := rfl
@[simp] theorem dequeueWhere_settings (s : State) (p : Waiting → Bool) : (s.dequeueWhere p).settings = s.settings := rfl
@[simp] theorem dequeueWhere_channels (s : State) (p : Waiting → Bool) : (s.dequeueWhere p).channels = s.channels := rfl
@[simp] theorem dequeueWhere_chain (s : State) (p : Waiting → Bool) : (s.dequeueWhere p).chain = s.chain := rfl
@[simp] theorem dequeueWhere_assess (s : State) (p : Waiting → Bool) : (s.dequeueWhere p).assess = s.assess := rfl
@[simp] theorem dequeueWhere_notices (s : State) (p : Waiting → Bool) : (s.dequeueWhere p).notices = s.notices := rfl
@[simp] theorem dequeueWhere_stream (s : State) (p : Waiting → Bool) : (s.dequeueWhere p).stream = s.stream := rfl
@[simp] theorem dequeueWhere_link (s : State) (p : Waiting → Bool) : (s.dequeueWhere p).link = s.link := rfl
@[simp] theorem dequeueWhere_pending (s : State) (p : Waiting → Bool) : (s.dequeueWhere p).pending = s.pending := rfl
@[simp] theorem dequeueWhere_world (s : State) (p : Waiting → Bool) : (s.dequeueWhere p).world = s.world := rfl
@[simp] theorem dequeueWhere_choices (s : State) (p : Waiting → Bool) : (s.dequeueWhere p).choices = s.choices := rfl

@[simp] theorem send_zones (s : State) (f : Frame) (o : Source) : (s.send f o).zones = s.zones := rfl
@[simp] theorem send_meters (s : State) (f : Frame) (o : Source) : (s.send f o).meters = s.meters := rfl
@[simp] theorem send_clock (s : State) (f : Frame) (o : Source) : (s.send f o).clock = s.clock := rfl
@[simp] theorem send_settings (s : State) (f : Frame) (o : Source) : (s.send f o).settings = s.settings := rfl
@[simp] theorem send_channels (s : State) (f : Frame) (o : Source) : (s.send f o).channels = s.channels := rfl
@[simp] theorem send_intake (s : State) (f : Frame) (o : Source) : (s.send f o).intake = s.intake := rfl
@[simp] theorem send_chain (s : State) (f : Frame) (o : Source) : (s.send f o).chain = s.chain := rfl
@[simp] theorem send_assess (s : State) (f : Frame) (o : Source) : (s.send f o).assess = s.assess := rfl
@[simp] theorem send_notices (s : State) (f : Frame) (o : Source) : (s.send f o).notices = s.notices := rfl
@[simp] theorem send_stream (s : State) (f : Frame) (o : Source) : (s.send f o).stream = s.stream := rfl
@[simp] theorem send_pending (s : State) (f : Frame) (o : Source) : (s.send f o).pending = s.pending := rfl
@[simp] theorem send_world (s : State) (f : Frame) (o : Source) : (s.send f o).world = s.world := rfl
@[simp] theorem send_choices (s : State) (f : Frame) (o : Source) : (s.send f o).choices = s.choices := rfl

end Sys2Proof.Machine
end

