-- ==== Sys2Proof/Laws/Tables.lean ====
section
/-! SUPPORT. Sparse tables: reading after a write, and the canonical form that every table operation keeps
(log 11). -/

namespace Sys2Proof.Machine

variable {α : Type}

/-! ### Reading after a write -/

theorem find_put_self (k : Nat) (v : α) (t : List (Nat × α)) : Table.find k (Table.put k v t) = some v := by
  induction t with
  | nil => simp [Table.put, Table.find]
  | cons p rest ih =>
    obtain ⟨i, w⟩ := p
    simp only [Table.put]
    split
    · simp [Table.find]
    · split
      · simp [Table.find]
      · simp [Table.find, *]

theorem find_put_ne {j k : Nat} (h : j ≠ k) (v : α) (t : List (Nat × α)) : Table.find j (Table.put k v t) = Table.find j t := by
  induction t with
  | nil => simp [Table.put, Table.find, Ne.symm h]
  | cons p rest ih =>
    obtain ⟨i, w⟩ := p
    simp only [Table.put]
    split
    · subst_vars; simp [Table.find, Ne.symm h]
    · split
      · simp [Table.find, Ne.symm h]
      · simp [Table.find, ih]

theorem find_put (j k : Nat) (v : α) (t : List (Nat × α)) :
    Table.find j (Table.put k v t) = if j = k then some v else Table.find j t := by
  split
  · subst_vars; exact find_put_self _ _ _
  · exact find_put_ne ‹_› _ _

theorem find_del (j k : Nat) (t : List (Nat × α)) : Table.find j (Table.del k t) = if j = k then none else Table.find j t := by
  induction t with
  | nil => simp [Table.del, Table.find]
  | cons p rest ih =>
    obtain ⟨i, w⟩ := p
    unfold Table.del at ih ⊢
    by_cases hik : i = k
    · subst hik
      simp only [List.filter_cons, ne_eq, not_true_eq_false, decide_false, Bool.false_eq_true, if_false, ih, Table.find]
      by_cases hj : j = i
      · simp [hj]
      · simp [hj, Ne.symm hj]
    · simp only [List.filter_cons, ne_eq, hik, not_false_eq_true, decide_true, if_true, Table.find, ih]
      by_cases hj : j = k
      · subst hj; simp [hik]
      · simp [hj]

/-- A zone number read after a write of another or of itself. -/
theorem zone_setZone (s : State) (z y : Nat) (v : Zone) : (s.setZone z v).zone y = if y = z then v else s.zone y := by
  unfold State.zone State.setZone
  by_cases hv : v = Zone.initial
  · simp only [hv, if_true, find_del]; split <;> simp
  · simp only [hv, if_false, find_put]; split <;> simp

/-- A channel read after a write of another or of itself. -/
theorem channel_setChannel (s : State) (c d : Nat) (v : Channel) :
    (s.setChannel c v).channel d = if d = c then v else s.channel d := by
  unfold State.channel State.setChannel
  by_cases hv : v = Channel.initial
  · simp only [hv, if_true, find_del]; split <;> simp
  · simp only [hv, if_false, find_put]; split <;> simp

/-- A meter index read after a write of another or of itself. -/
theorem meter_putMeter (s : State) (i j : Nat) (m : Meter) : (s.putMeter i m).meter j = if j = i then some m else s.meter j := by
  simp only [State.meter, State.putMeter, find_put]

/-- A meter index read after another or itself was freed. -/
theorem meter_delMeter (s : State) (i j : Nat) : (s.delMeter i).meter j = if j = i then none else s.meter j := by
  simp only [State.meter, State.delMeter, find_del]

/-- A zone's entry read after a write of an entry. -/
theorem entry_setEntry (s : State) (z y : Nat) (e : Option ZoneEntry) :
    (s.setEntry z e).entry y = if y = z then e else s.entry y := by
  simp only [State.entry, State.setEntry, zone_setZone]; split <;> simp

/-- A descriptor read after a write of a descriptor. -/
theorem night_setNight (s : State) (r q : NightRef) (n : Option Night) (hr : r.desc < 3) :
    (s.setNight r n).night q = if q = r then n else s.night q := by
  obtain ⟨rz, rd⟩ := r
  obtain ⟨qz, qd⟩ := q
  simp only [State.night, State.setNight, zone_setZone, NightRef.mk.injEq]
  by_cases hz : qz = rz
  · subst hz
    simp only [if_true, true_and]
    match rd, hr with
    | 0, _ => match qd with | 0 => rfl | 1 => rfl | 2 => rfl | _ + 3 => rfl
    | 1, _ => match qd with | 0 => rfl | 1 => rfl | 2 => rfl | _ + 3 => rfl
    | 2, _ => match qd with | 0 => rfl | 1 => rfl | 2 => rfl | _ + 3 => rfl
  · simp [hz]

/-! ### The canonical form -/

theorem mem_put {k : Nat} {v : α} {t : List (Nat × α)} {p : Nat × α} (h : p ∈ Table.put k v t) : p = (k, v) ∨ p ∈ t := by
  induction t with
  | nil => simpa [Table.put] using h
  | cons q rest ih =>
    obtain ⟨i, w⟩ := q
    simp only [Table.put] at h
    split at h
    · simp only [List.mem_cons] at h ⊢; tauto
    · split at h
      · simp only [List.mem_cons] at h ⊢; tauto
      · simp only [List.mem_cons] at h ⊢
        rcases h with h | h
        · tauto
        · rcases ih h with h | h <;> tauto

theorem wf_put [DecidableEq α] (d : Option α) (k : Nat) (v : α) (t : List (Nat × α)) (hv : some v ≠ d)
    (h : Table.wf d t = true) : Table.wf d (Table.put k v t) = true := by
  induction t with
  | nil => simp [Table.put, Table.wf, hv]
  | cons q rest ih =>
    obtain ⟨i, w⟩ := q
    simp only [Table.wf, Bool.and_eq_true, List.all_eq_true, decide_eq_true_eq] at h
    obtain ⟨⟨hlt, hw⟩, hrest⟩ := h
    simp only [Table.put]
    split
    · subst_vars
      simp only [Table.wf, Bool.and_eq_true, List.all_eq_true, decide_eq_true_eq, bne_iff_ne]
      exact ⟨⟨hlt, hv⟩, hrest⟩
    · split
      · rename_i hki
        simp only [Table.wf, Bool.and_eq_true, List.all_eq_true, decide_eq_true_eq, bne_iff_ne, List.mem_cons]
        refine ⟨⟨?_, hv⟩, ⟨hlt, by simpa using hw⟩, hrest⟩
        rintro p (rfl | hp)
        · exact hki
        · exact lt_trans hki (hlt p hp)
      · rename_i hne hnl
        simp only [Table.wf, Bool.and_eq_true, List.all_eq_true, decide_eq_true_eq]
        refine ⟨⟨?_, hw⟩, ih hrest⟩
        intro p hp
        rcases mem_put hp with rfl | hp
        · simp only; omega
        · exact hlt p hp

theorem wf_filter [DecidableEq α] (d : Option α) (f : Nat × α → Bool) (t : List (Nat × α)) (h : Table.wf d t = true) :
    Table.wf d (t.filter f) = true := by
  induction t with
  | nil => simp [Table.wf]
  | cons q rest ih =>
    obtain ⟨i, w⟩ := q
    simp only [Table.wf, Bool.and_eq_true, List.all_eq_true, decide_eq_true_eq] at h
    obtain ⟨⟨hlt, hw⟩, hrest⟩ := h
    simp only [List.filter_cons]
    split
    · simp only [Table.wf, Bool.and_eq_true, List.all_eq_true, decide_eq_true_eq]
      refine ⟨⟨fun p hp => hlt p (List.mem_of_mem_filter hp), hw⟩, ih hrest⟩
    · exact ih hrest

theorem wf_del [DecidableEq α] (d : Option α) (k : Nat) (t : List (Nat × α)) (h : Table.wf d t = true) :
    Table.wf d (Table.del k t) = true := wf_filter d _ t h

/-- Records rewritten in place keep a table canonical where no rewritten record is the default. -/
theorem wf_map [DecidableEq α] (d : Option α) (f : α → α) (t : List (Nat × α)) (hf : ∀ p ∈ t, some (f p.2) ≠ d)
    (h : Table.wf d t = true) : Table.wf d (t.map fun p => (p.1, f p.2)) = true := by
  induction t with
  | nil => simp [Table.wf]
  | cons q rest ih =>
    obtain ⟨i, w⟩ := q
    simp only [Table.wf, Bool.and_eq_true, List.all_eq_true, decide_eq_true_eq] at h
    obtain ⟨⟨hlt, hw⟩, hrest⟩ := h
    simp only [List.map_cons, Table.wf, Bool.and_eq_true, List.all_eq_true, decide_eq_true_eq, bne_iff_ne]
    refine ⟨⟨?_, hf (i, w) (by simp)⟩, ih (fun p hp => hf p (by simp [hp])) hrest⟩
    intro p hp
    obtain ⟨q, hq, rfl⟩ := List.mem_map.1 hp
    exact hlt q hq

/-- Records rewritten in place, those that became the default dropped, leave a canonical table. -/
theorem wf_map_filter [DecidableEq α] (e : α) (f : α → α) (t : List (Nat × α)) (h : Table.wf (some e) t = true) :
    Table.wf (some e) ((t.map fun p => (p.1, f p.2)).filter fun p => p.2 ≠ e) = true := by
  induction t with
  | nil => simp [Table.wf]
  | cons q rest ih =>
    obtain ⟨i, w⟩ := q
    simp only [Table.wf, Bool.and_eq_true, List.all_eq_true, decide_eq_true_eq] at h
    obtain ⟨⟨hlt, hw⟩, hrest⟩ := h
    simp only [List.map_cons, List.filter_cons]
    split
    · rename_i hne
      simp only [Table.wf, Bool.and_eq_true, List.all_eq_true, decide_eq_true_eq, bne_iff_ne]
      refine ⟨⟨?_, by simpa using hne⟩, ih hrest⟩
      intro p hp
      obtain ⟨q, hq, rfl⟩ := List.mem_map.1 (List.mem_of_mem_filter hp)
      exact hlt q hq
    · exact ih hrest

theorem setZone_wf (s : State) (z : Nat) (v : Zone) (h : Table.wf (some Zone.initial) s.zones = true) :
    Table.wf (some Zone.initial) (s.setZone z v).zones = true := by
  unfold State.setZone
  by_cases hv : v = Zone.initial
  · simp only [hv, if_true]; exact wf_del _ _ _ h
  · simp only [hv, if_false]; exact wf_put _ _ _ _ (by simpa using hv) h

theorem setChannel_wf (s : State) (c : Nat) (v : Channel) (h : Table.wf (some Channel.initial) s.channels = true) :
    Table.wf (some Channel.initial) (s.setChannel c v).channels = true := by
  unfold State.setChannel
  by_cases hv : v = Channel.initial
  · simp only [hv, if_true]; exact wf_del _ _ _ h
  · simp only [hv, if_false]; exact wf_put _ _ _ _ (by simpa using hv) h

theorem putMeter_wf (s : State) (i : Nat) (m : Meter) (h : Table.wf (none : Option Meter) s.meters = true) :
    Table.wf (none : Option Meter) (s.putMeter i m).meters = true := wf_put _ _ _ _ (by simp) h

theorem delMeter_wf (s : State) (i : Nat) (h : Table.wf (none : Option Meter) s.meters = true) :
    Table.wf (none : Option Meter) (s.delMeter i).meters = true := wf_del _ _ _ h

/-! ### Reading a table rewritten in place -/

/-- Every listed number of a table rewritten in place reads as its rewritten record. -/
theorem find_map (f : α → α) (k : Nat) (t : List (Nat × α)) :
    Table.find k (t.map fun p => (p.1, f p.2)) = (Table.find k t).map f := by
  induction t with
  | nil => rfl
  | cons p rest ih =>
    simp only [List.map_cons, Table.find]
    split
    · rfl
    · exact ih

/-- A number below every listed one is not listed. -/
theorem find_none_of_lt (k : Nat) (t : List (Nat × α)) (h : ∀ p ∈ t, k < p.1) : Table.find k t = none := by
  induction t with
  | nil => rfl
  | cons p rest ih =>
    have hp := h p (by simp)
    simp only [Table.find]
    rw [if_neg (by omega)]
    exact ih fun q hq => h q (by simp [hq])

/-- A canonical table rewritten in place, the records that became the default dropped, reads everywhere as the
rewritten record, the default being rewritten to itself. -/
theorem find_map_filter [DecidableEq α] (e : α) (f : α → α) (he : f e = e) (k : Nat) (t : List (Nat × α))
    (h : Table.wf (some e) t = true) :
    (Table.find k ((t.map fun p => (p.1, f p.2)).filter fun p => p.2 ≠ e)).getD e = f ((Table.find k t).getD e) := by
  induction t with
  | nil => simp [Table.find, he]
  | cons q rest ih =>
    obtain ⟨i, w⟩ := q
    simp only [Table.wf, Bool.and_eq_true, List.all_eq_true, decide_eq_true_eq] at h
    obtain ⟨⟨hlt, _⟩, hrest⟩ := h
    have hgone : i = k → Table.find k ((rest.map fun p => (p.1, f p.2)).filter fun p => p.2 ≠ e) = none := by
      intro hk
      refine find_none_of_lt k _ fun p hp => ?_
      obtain ⟨q, hq, rfl⟩ := List.mem_map.1 (List.mem_of_mem_filter hp)
      simpa [← hk] using hlt q hq
    simp only [List.map_cons, List.filter_cons]
    by_cases hk : i = k
    · by_cases hw : f w = e
      · have hg := hgone hk
        simp only [ne_eq, decide_not] at hg
        simp [hw, Table.find, hk, hg]
      · simp [hw, Table.find, hk]
    · by_cases hw : f w = e
      · simpa [hw, Table.find, hk] using ih hrest
      · simpa [hw, Table.find, hk] using ih hrest

/-- A record listed in a canonical table is the one its number reads as. -/
theorem find_of_mem [DecidableEq α] (d : Option α) (t : List (Nat × α)) (h : Table.wf d t = true) {p : Nat × α} (hp : p ∈ t) :
    Table.find p.1 t = some p.2 := by
  induction t with
  | nil => simp at hp
  | cons q rest ih =>
    obtain ⟨i, w⟩ := q
    simp only [Table.wf, Bool.and_eq_true, List.all_eq_true, decide_eq_true_eq] at h
    obtain ⟨⟨hlt, _⟩, hrest⟩ := h
    simp only [Table.find]
    rcases List.mem_cons.1 hp with rfl | hp
    · simp
    · rw [if_neg (by have := hlt p hp; omega)]
      exact ih hrest hp

/-- A number that reads as a record is listed with it. -/
theorem mem_of_find {k : Nat} {v : α} {t : List (Nat × α)} (h : Table.find k t = some v) : (k, v) ∈ t := by
  induction t with
  | nil => simp [Table.find] at h
  | cons q rest ih =>
    obtain ⟨i, w⟩ := q
    simp only [Table.find] at h
    split at h
    · simp_all
    · exact List.mem_cons_of_mem _ (ih h)

/-! ### The tag map (R13) -/

/-- A lookup after a pair was entered into the tag map. -/
theorem find_enter (tag : Nat) (p : Nat × Nat) (t : List (Nat × Nat)) :
    Table.find tag (TagMap.enter p t) = if p.1 = tag then some p.2 else Table.find tag t := by
  induction t with
  | nil => simp only [TagMap.enter, Table.find]
  | cons q rest ih =>
    unfold TagMap.enter
    split
    · simp only [Table.find]
    · rename_i h
      simp only [Table.find, ih]
      by_cases h1 : q.1 = tag
      · rw [if_pos h1, if_pos h1, if_neg (by omega)]
      · rw [if_neg h1, if_neg h1]

/-- The tag map gives a tag the index of the first meter that bears it. -/
theorem meterByTag_eq (s : State) (tag : Nat) :
    s.meterByTag tag = Table.find tag (s.meters.map fun p => (p.2.tag, p.1)) := by
  unfold State.meterByTag State.tagMap
  induction s.meters with
  | nil => rfl
  | cons p rest ih => simp only [List.foldr_cons, List.map_cons, find_enter, Table.find, ih]

/-- What a pair entered into the tag map adds to it. -/
theorem mem_enter {p q : Nat × Nat} {t : List (Nat × Nat)} : q ∈ TagMap.enter p t ↔ q = p ∨ q ∈ t := by
  induction t with
  | nil => simp [TagMap.enter]
  | cons x rest ih =>
    unfold TagMap.enter
    split
    · simp
    · simp only [List.mem_cons, ih]
      tauto

/-- A pair enters the tag map at its place in order of tag. -/
theorem enter_sorted {p : Nat × Nat} {t : List (Nat × Nat)} (h : t.Pairwise fun a b => a.1 ≤ b.1) :
    (TagMap.enter p t).Pairwise fun a b => a.1 ≤ b.1 := by
  induction t with
  | nil => simp [TagMap.enter]
  | cons q rest ih =>
    rw [List.pairwise_cons] at h
    unfold TagMap.enter
    split
    · rename_i hle
      refine List.pairwise_cons.2 ⟨fun x hx => ?_, List.pairwise_cons.2 h⟩
      rcases List.mem_cons.1 hx with rfl | hx
      · exact hle
      · exact hle.trans (h.1 x hx)
    · rename_i hle
      refine List.pairwise_cons.2 ⟨fun x hx => ?_, ih h.2⟩
      rcases mem_enter.1 hx with rfl | hx
      · omega
      · exact h.1 x hx

/-- The tag map stands in order of tag (R13). -/
theorem tagMap_sorted (s : State) : s.tagMap.Pairwise fun a b => a.1 ≤ b.1 := by
  unfold State.tagMap
  induction s.meters with
  | nil => exact List.Pairwise.nil
  | cons p rest ih => exact enter_sorted ih

end Sys2Proof.Machine
end

