-- ==== Sys2Proof/Laws/Frames.lean ====
section
/-! SUPPORT. What the operations on nights and flags leave as it was: one lemma per operation, over the relation
`NightFrame`. -/

namespace Sys2Proof.Machine

/-- An act on nights and flags keeps the meters, the clock, the settings, the channels, the intake, the link, the
queue of commands, every zone entry and every verdict record. -/
structure NightFrame (s t : State) : Prop where
  meters : t.meters = s.meters
  clock : t.clock = s.clock
  settings : t.settings = s.settings
  channels : t.channels = s.channels
  intake : t.intake = s.intake
  link : t.link = s.link
  pending : t.pending = s.pending
  entry : ∀ z, (t.zone z).entry = (s.zone z).entry
  verdict : ∀ z, (t.zone z).verdict = (s.zone z).verdict

namespace NightFrame

theorem refl (s : State) : NightFrame s s := ⟨rfl, rfl, rfl, rfl, rfl, rfl, rfl, fun _ => rfl, fun _ => rfl⟩

theorem trans {s t u : State} (h : NightFrame s t) (k : NightFrame t u) : NightFrame s u :=
  ⟨k.meters.trans h.meters, k.clock.trans h.clock, k.settings.trans h.settings, k.channels.trans h.channels,
    k.intake.trans h.intake, k.link.trans h.link, k.pending.trans h.pending, fun z => (k.entry z).trans (h.entry z),
    fun z => (k.verdict z).trans (h.verdict z)⟩

/-- A zone number's record replaced by one with the same entry and verdict. -/
theorem setZone (s : State) (z : Nat) (v : Zone) (he : v.entry = (s.zone z).entry) (hv : v.verdict = (s.zone z).verdict) :
    NightFrame s (s.setZone z v) :=
  ⟨rfl, rfl, rfl, rfl, rfl, rfl, rfl, fun y => by rw [zone_setZone]; split <;> simp_all,
    fun y => by rw [zone_setZone]; split <;> simp_all⟩

/-- States that agree on everything the relation speaks of. -/
theorem ofEq {s t : State} (hz : t.zones = s.zones) (hm : t.meters = s.meters) (hc : t.clock = s.clock)
    (hs : t.settings = s.settings) (hch : t.channels = s.channels) (hi : t.intake = s.intake) (hl : t.link = s.link)
    (hp : t.pending = s.pending) : NightFrame s t :=
  ⟨hm, hc, hs, hch, hi, hl, hp, fun z => by simp [State.zone, hz], fun z => by simp [State.zone, hz]⟩

end NightFrame

theorem setNight_entry (v : Zone) (d : Nat) (n : Option Night) : (v.setNight d n).entry = v.entry := by
  unfold Zone.setNight; split <;> rfl

theorem setNight_verdict (v : Zone) (d : Nat) (n : Option Night) : (v.setNight d n).verdict = v.verdict := by
  unfold Zone.setNight; split <;> rfl

theorem setNight_frame (s : State) (r : NightRef) (n : Option Night) : NightFrame s (s.setNight r n) :=
  NightFrame.setZone s _ _ (setNight_entry _ _ _) (setNight_verdict _ _ _)

theorem joinQueue_frame (s : State) (e : Nat) : NightFrame s (s.joinQueue e) := by
  unfold State.joinQueue
  split
  · exact NightFrame.refl s
  · exact NightFrame.ofEq rfl rfl rfl rfl rfl rfl rfl rfl

theorem raise_frame (s : State) (z : Nat) (f : ZoneFlag) : NightFrame s (s.raise z f) := by
  unfold State.raise
  split
  · exact NightFrame.refl s
  · refine NightFrame.trans ?_ (joinQueue_frame _ z)
    exact NightFrame.setZone s _ _ rfl rfl

theorem raiseIf_frame (s : State) (c : Bool) (z : Nat) (f : ZoneFlag) : NightFrame s (s.raiseIf c z f) := by
  unfold State.raiseIf
  split
  · exact raise_frame s z f
  · exact NightFrame.refl s

theorem raisePool_frame (s : State) : NightFrame s s.raisePool := by
  unfold State.raisePool
  split
  · exact NightFrame.refl s
  · refine NightFrame.trans ?_ (joinQueue_frame _ 0)
    exact NightFrame.ofEq rfl rfl rfl rfl rfl rfl rfl rfl

theorem recordSkip_frame (s : State) (z : Nat) (c : SkipCause) (d : Nat) : NightFrame s (s.recordSkip z c d) := by
  unfold State.recordSkip
  simp only
  have h := (NightFrame.setZone s z
    { s.zone z with skip := some (nextSkip (s.zone z).skip (s.zone z).flags.skip c d) } rfl rfl).trans (raise_frame _ z .skip)
  split
  · exact h.trans (raisePool_frame _)
  · exact h

theorem releaseNight_frame (s : State) (r : NightRef) : NightFrame s (s.releaseNight r) :=
  (setNight_frame s r none).trans (NightFrame.ofEq rfl rfl rfl rfl rfl rfl rfl rfl)

theorem freeze_frame (s : State) (r : NightRef) : NightFrame s (s.freeze r) := by
  unfold State.freeze
  split
  · exact NightFrame.refl s
  · exact (setNight_frame s r _).trans (NightFrame.ofEq rfl rfl rfl rfl rfl rfl rfl rfl)

theorem enterDraining_frame (s : State) (r : NightRef) : NightFrame s (s.enterDraining r) := by
  unfold State.enterDraining
  split
  · exact NightFrame.refl s
  · split
    · exact setNight_frame s r _
    · exact freeze_frame s r

theorem choose_frame (n : Nat) (s : State) : NightFrame s (choose n s).2 := by
  unfold choose
  split
  · exact NightFrame.refl s
  · split <;> exact NightFrame.ofEq rfl rfl rfl rfl rfl rfl rfl rfl

theorem settleDrainsLoop_frame (k : Nat) (s : State) : NightFrame s (settleDrainsLoop k s) := by
  induction k generalizing s with
  | zero => exact NightFrame.refl s
  | succ k ih =>
    unfold settleDrainsLoop
    split
    · exact NightFrame.refl s
    · exact ((choose_frame _ s).trans (freeze_frame _ _)).trans (ih _)

theorem settleDrains_frame (s : State) : NightFrame s s.settleDrains := settleDrainsLoop_frame _ s

theorem endApplication_frame (s : State) : NightFrame s s.endApplication := by
  unfold State.endApplication
  split
  · split
    · exact NightFrame.ofEq rfl rfl rfl rfl rfl rfl rfl rfl
    · exact NightFrame.refl s
  · exact NightFrame.refl s

theorem quiesce_frame (s : State) : NightFrame s s.quiesce := (endApplication_frame s).trans (settleDrains_frame _)

theorem openNight_frame (s : State) (r : NightRef) (n : Night) : NightFrame s (s.openNight r n) :=
  (setNight_frame s r _).trans (NightFrame.ofEq rfl rfl rfl rfl rfl rfl rfl rfl)

theorem regularStart_frame (s : State) (z w t1 : Nat) : NightFrame s (s.regularStart z w t1) := by
  unfold State.regularStart
  split
  · exact NightFrame.refl s
  · split
    · exact NightFrame.refl s
    · simp only
      split
      · exact NightFrame.refl s
      · split
        · exact recordSkip_frame _ _ _ _
        · split
          · exact recordSkip_frame _ _ _ _
          · split
            · exact recordSkip_frame _ _ _ _
            · exact openNight_frame _ _ _

theorem surveyStart_frame (s : State) (z t1 : Nat) : NightFrame s (s.surveyStart z t1) := by
  unfold State.surveyStart
  simp only
  split
  · exact NightFrame.refl s
  · split
    · exact NightFrame.refl s
    · split
      · exact (releaseNight_frame _ _).trans (recordSkip_frame _ _ _ _)
      · split
        · exact (releaseNight_frame _ _).trans (recordSkip_frame _ _ _ _)
        · exact openNight_frame _ _ _

theorem windowEnds_frame (s : State) (r : NightRef) : NightFrame s (s.windowEnds r) := by
  unfold State.windowEnds
  split
  · exact NightFrame.refl s
  · split
    · exact NightFrame.refl s
    · split
      · exact enterDraining_frame s r
      · exact setNight_frame s r _

theorem deadlinePasses_frame (s : State) (r : NightRef) : NightFrame s (s.deadlinePasses r) := by
  unfold State.deadlinePasses
  split
  · exact NightFrame.refl s
  · split
    · exact enterDraining_frame s r
    · exact NightFrame.refl s

theorem earlyCompletion_frame (s : State) (r : NightRef) : NightFrame s (s.earlyCompletion r) := by
  unfold State.earlyCompletion
  split
  · exact NightFrame.refl s
  · split
    · exact enterDraining_frame s r
    · exact NightFrame.refl s

theorem stopNight_frame (s : State) (r : NightRef) : NightFrame s (s.stopNight r) := by
  unfold State.stopNight
  split
  · exact NightFrame.refl s
  · exact (releaseNight_frame _ _).trans (recordSkip_frame _ _ _ _)

theorem stopNightsLoop_frame (k z : Nat) (s : State) : NightFrame s (stopNightsLoop k z s) := by
  induction k generalizing s with
  | zero => exact NightFrame.refl s
  | succ k ih =>
    unfold stopNightsLoop
    split
    · exact NightFrame.refl s
    · exact ((choose_frame _ s).trans (stopNight_frame _ _)).trans (ih _)

theorem stopNights_frame (s : State) (z : Nat) : NightFrame s (s.stopNights z) := stopNightsLoop_frame _ _ s

/-! ### Exceptions: the meters change in their exception records only -/

/-- An exception recorded changes no link, no clock, no zone entry: the meter's record, and the METER flag. -/
theorem raiseMeter_frame (s : State) : NightFrame s s.raiseMeter := by
  unfold State.raiseMeter
  split
  · exact NightFrame.refl s
  · refine NightFrame.trans ?_ (joinQueue_frame _ 0)
    exact NightFrame.ofEq rfl rfl rfl rfl rfl rfl rfl rfl

theorem recordException_link (s : State) (i : Nat) (c : ExceptionCode) (t : Nat) : (s.recordException i c t).link = s.link := by
  unfold State.recordException
  split
  · rfl
  · simp only
    split
    · exact (raiseMeter_frame _).link
    · rfl

/-- A meter's other fields after an exception was recorded against some meter. -/
theorem recordException_meter (s : State) (i j : Nat) (c : ExceptionCode) (t : Nat) :
    ((s.recordException i c t).meter j) =
      (s.meter j).map fun m => if j = i then { m with exceptions := some (nextException m.exceptions c t) } else m := by
  have key : ∀ u : State, u.raiseMeter.meter j = u.meter j := fun u => by simp [State.meter, (raiseMeter_frame u).meters]
  unfold State.recordException
  cases hm : s.meter i with
  | none =>
    by_cases hj : j = i
    · subst hj; simp [hm]
    · simp [hj]
  | some m =>
    have h2 : (s.putMeter i { m with exceptions := some (nextException m.exceptions c t) }).meter j =
        (s.meter j).map fun m => if j = i then { m with exceptions := some (nextException m.exceptions c t) } else m := by
      rw [meter_putMeter]
      by_cases hj : j = i
      · subst hj; simp [hm]
      · simp [hj]
    simp only
    split
    · rw [key]; exact h2
    · exact h2

/-! ### Advances (R20, R22) -/

theorem clearRejected_link (s : State) (c : Nat) : (s.clearRejected c).link = s.link := rfl

/-- What every act of an advance keeps: everything a night act keeps but the channels and the intake. -/
structure AdvanceFrame (s t : State) : Prop where
  meters : t.meters = s.meters
  clock : t.clock = s.clock
  settings : t.settings = s.settings
  link : t.link = s.link
  pending : t.pending = s.pending
  entry : ∀ z, (t.zone z).entry = (s.zone z).entry
  verdict : ∀ z, (t.zone z).verdict = (s.zone z).verdict

namespace AdvanceFrame

theorem refl (s : State) : AdvanceFrame s s := ⟨rfl, rfl, rfl, rfl, rfl, fun _ => rfl, fun _ => rfl⟩

theorem trans {s t u : State} (h : AdvanceFrame s t) (k : AdvanceFrame t u) : AdvanceFrame s u :=
  ⟨k.meters.trans h.meters, k.clock.trans h.clock, k.settings.trans h.settings, k.link.trans h.link,
    k.pending.trans h.pending, fun z => (k.entry z).trans (h.entry z), fun z => (k.verdict z).trans (h.verdict z)⟩

theorem ofNight {s t : State} (h : NightFrame s t) : AdvanceFrame s t :=
  ⟨h.meters, h.clock, h.settings, h.link, h.pending, h.entry, h.verdict⟩

end AdvanceFrame

theorem clearRejected_frame (s : State) (c : Nat) : AdvanceFrame s (s.clearRejected c) :=
  ⟨rfl, rfl, rfl, rfl, rfl, fun _ => rfl, fun _ => rfl⟩

theorem channelActs_frame (s : State) (c b : Nat) : AdvanceFrame s (s.channelActs c b) := by
  unfold State.channelActs
  split
  · exact clearRejected_frame s c
  · refine AdvanceFrame.trans ?_ (AdvanceFrame.ofNight (quiesce_frame _))
    exact ⟨rfl, rfl, rfl, rfl, rfl, fun _ => rfl, fun _ => rfl⟩

theorem act_frame (s : State) (t1 b : Nat) (a : Act) : AdvanceFrame s (s.act t1 b a) := by
  cases a with
  | regularStart z w => exact AdvanceFrame.ofNight ((regularStart_frame _ _ _ _).trans (quiesce_frame _))
  | surveyStart z => exact AdvanceFrame.ofNight ((surveyStart_frame _ _ _).trans (quiesce_frame _))
  | windowEnd r => exact AdvanceFrame.ofNight ((windowEnds_frame _ _).trans (quiesce_frame _))
  | deadline r => exact AdvanceFrame.ofNight ((deadlinePasses_frame _ _).trans (quiesce_frame _))
  | announce c => exact channelActs_frame s c b

theorem advanceLoop_frame (t0 t1 b k : Nat) (zs : List (Nat × Nat)) (cs : List Nat) (s : State) :
    AdvanceFrame s (advanceLoop t0 t1 b k zs cs s) := by
  induction k generalizing zs cs s with
  | zero => exact AdvanceFrame.refl s
  | succ k ih =>
    unfold advanceLoop
    split
    · exact AdvanceFrame.refl s
    · exact ((AdvanceFrame.ofNight (choose_frame _ s)).trans (act_frame _ _ _ _)).trans (ih _ _ _)

theorem foldClear_frame (cs : List Nat) (s : State) : AdvanceFrame s (cs.foldl State.clearRejected s) := by
  induction cs generalizing s with
  | nil => exact AdvanceFrame.refl s
  | cons c rest ih => exact (clearRejected_frame s c).trans (ih _)

/-- An advance sets the site time and keeps the meters, the settings, the link and every zone's entry and
verdict record. -/
theorem advance_frame (s : State) (t1 : Nat) : AdvanceFrame { s with clock := { s.clock with time := t1 } } (s.advance t1) := by
  unfold State.advance
  exact (foldClear_frame _ _).trans (advanceLoop_frame _ _ _ _ _ _ _)

end Sys2Proof.Machine
end

