-- ==== Sys2Proof/Laws/Advance.lean ====
section
/-! SUPPORT. A clock advance takes acts until none is left: every act uses up one of the instants a zone has left, so
the fuel of the loop is enough. -/

namespace Sys2Proof.Machine

/-! ### What an act does to the instants a night has left -/

/-- How many instants a night in a state can still bring in an advance (R28, R33). -/
def NightState.instants : NightState → Nat
  | .armed => 3
  | .opened => 2
  | .closing => 1
  | .draining => 0
  | .queued => 0
  | .assessing => 0

/-- How many instants a descriptor's night can still bring in an advance. -/
def instantsLeft : Option Night → Nat
  | none => 0
  | some n => n.state.instants

/-- The instants left to a night in a known state. -/
theorem instantsLeft_some {n : Night} {st : NightState} (h : n.state = st) : instantsLeft (some n) = st.instants :=
  congrArg NightState.instants h

/-- The instants that the three nights of a zone can still bring. -/
def State.nightInstants (s : State) (z : Nat) : Nat :=
  instantsLeft (s.night ⟨z, 0⟩) + instantsLeft (s.night ⟨z, 1⟩) + instantsLeft (s.night ⟨z, 2⟩)

/-- No night has more instants left than it had. -/
def State.NoLater (s t : State) : Prop := ∀ r : NightRef, r.desc < 3 → instantsLeft (t.night r) ≤ instantsLeft (s.night r)

namespace State.NoLater

theorem refl (s : State) : s.NoLater s := fun _ _ => le_rfl

theorem trans {s t u : State} (h : s.NoLater t) (k : t.NoLater u) : s.NoLater u := fun r hr => (k r hr).trans (h r hr)

theorem ofZones {s t : State} (h : t.zones = s.zones) : s.NoLater t := fun r _ => by
  unfold State.night State.zone
  rw [h]

theorem nightInstants {s t : State} (h : s.NoLater t) (z : Nat) : t.nightInstants z ≤ s.nightInstants z :=
  Nat.add_le_add (Nat.add_le_add (h ⟨z, 0⟩ (show 0 < 3 by decide)) (h ⟨z, 1⟩ (show 1 < 3 by decide))) (h ⟨z, 2⟩ (show 2 < 3 by decide))

end State.NoLater

/-- The nights of a state whose zones differ in nothing but flags, skip records and marks. -/
theorem night_setZone_same (s : State) (z : Nat) (v : Zone) (hv : ∀ d, v.night d = (s.zone z).night d) (r : NightRef) :
    (s.setZone z v).night r = s.night r := by
  unfold State.night
  rw [zone_setZone]
  split
  · rename_i h; rw [hv, h]
  · rfl

theorem joinQueue_night (s : State) (e : Nat) (r : NightRef) : (s.joinQueue e).night r = s.night r := by
  unfold State.joinQueue
  split <;> rfl

theorem raise_night (s : State) (z : Nat) (f : ZoneFlag) (r : NightRef) : (s.raise z f).night r = s.night r := by
  unfold State.raise
  split
  · rfl
  · rw [joinQueue_night, night_setZone_same]
    intro d
    match d with | 0 => rfl | 1 => rfl | 2 => rfl | _ + 3 => rfl

theorem raisePool_night (s : State) (r : NightRef) : s.raisePool.night r = s.night r := by
  unfold State.raisePool
  split
  · rfl
  · rw [joinQueue_night]; rfl

/-- A skip changes no night. -/
theorem recordSkip_night (s : State) (z : Nat) (c : SkipCause) (d : Nat) (r : NightRef) :
    (s.recordSkip z c d).night r = s.night r := by
  unfold State.recordSkip
  simp only
  have h : ((s.setZone z { s.zone z with skip := some (nextSkip (s.zone z).skip (s.zone z).flags.skip c d) }).raise z .skip).night r =
      s.night r := by
    rw [raise_night, night_setZone_same]
    intro d
    match d with | 0 => rfl | 1 => rfl | 2 => rfl | _ + 3 => rfl
  split
  · rw [raisePool_night]; exact h
  · exact h

theorem releaseNight_night (s : State) (r q : NightRef) (hr : r.desc < 3) :
    (s.releaseNight r).night q = if q = r then none else s.night q := night_setNight s r q none hr

theorem openNight_night (s : State) (r q : NightRef) (n : Night) (hr : r.desc < 3) :
    (s.openNight r n).night q = if q = r then some (s.openedNight r.zone n) else s.night q := night_setNight s r q _ hr

/-- A night's record replaced by one with no more instants left. -/
theorem setNight_noLater {s : State} {r : NightRef} {n : Option Night} (hr : r.desc < 3)
    (h : instantsLeft n ≤ instantsLeft (s.night r)) : s.NoLater (s.setNight r n) := fun q _ => by
  rw [night_setNight s r q n hr]
  split
  · rename_i hq; rw [hq]; exact h
  · exact le_rfl

theorem freeze_noLater (s : State) {r : NightRef} (hr : r.desc < 3) : s.NoLater (s.freeze r) := by
  unfold State.freeze
  split
  · exact State.NoLater.refl s
  · exact (setNight_noLater hr (Nat.zero_le _)).trans (State.NoLater.ofZones rfl)

theorem mem_nights_desc {z : Nat} {v : Zone} {p : NightRef × Night} (h : p ∈ v.nights z) :
    p.1.desc < 3 ∧ p.1.zone = z ∧ v.night p.1.desc = some p.2 := by
  unfold Zone.nights at h
  obtain ⟨d, hd, he⟩ := List.mem_filterMap.1 h
  obtain ⟨n, hn, rfl⟩ := Option.map_eq_some_iff.1 he
  refine ⟨?_, rfl, hn⟩
  simp only [List.mem_cons, List.not_mem_nil, or_false] at hd
  show d < 3
  omega

theorem drained_desc {s : State} {r : NightRef} (h : r ∈ s.drained) : r.desc < 3 := by
  unfold State.drained State.nights at h
  obtain ⟨p, hp, he⟩ := List.mem_filterMap.1 h
  split at he
  · obtain ⟨q, _, hq⟩ := List.mem_flatMap.1 hp
    cases he
    exact (mem_nights_desc hq).1
  · cases he

theorem choose_zones (n : Nat) (s : State) : (choose n s).2.zones = s.zones := by
  unfold choose
  split
  · rfl
  · split <;> rfl

theorem getD_mem {α : Type} (x : α) (xs : List α) (i : Nat) : (x :: xs).getD i x ∈ x :: xs := by
  rw [List.getD_eq_getElem?_getD]
  cases h : (x :: xs)[i]? with
  | none => exact List.mem_cons_self
  | some y => exact List.mem_of_getElem? h

theorem settleDrainsLoop_noLater (k : Nat) (s : State) : s.NoLater (settleDrainsLoop k s) := by
  induction k generalizing s with
  | zero => exact State.NoLater.refl s
  | succ k ih =>
    unfold settleDrainsLoop
    split
    · exact State.NoLater.refl s
    · rename_i r rest h
      refine ((State.NoLater.ofZones (choose_zones _ s)).trans (freeze_noLater _ ?_)).trans (ih _)
      exact drained_desc (s := s) (by rw [h]; exact getD_mem _ _ _)

/-- What follows an act on nights or readings lets no night have more instants left. -/
theorem quiesce_noLater (s : State) : s.NoLater s.quiesce := by
  unfold State.quiesce State.settleDrains
  refine State.NoLater.trans (State.NoLater.ofZones ?_) (settleDrainsLoop_noLater _ _)
  unfold State.endApplication
  split
  · split <;> rfl
  · rfl

theorem place_state (L meter : Nat) (g : Segment) (n : Night) : (n.place L meter g).state = n.state := by
  unfold Night.place
  split <;> rfl

theorem placeAll_state (L meter : Nat) (gs : List Segment) (n : Night) : (n.placeAll L meter gs).state = n.state := by
  unfold Night.placeAll
  induction gs generalizing n with
  | nil => rfl
  | cons g rest ih => rw [List.foldl_cons, ih, place_state]

theorem openingPlacements_state (s : State) (n : Night) : (s.openingPlacements n).state = n.state := by
  unfold State.openingPlacements
  generalize n.required = qs
  induction qs generalizing n with
  | nil => rfl
  | cons q rest ih =>
    rw [List.foldl_cons, ih]
    split
    · rfl
    · exact placeAll_state _ _ _ _

/-- A night opened is OPEN. -/
theorem openedNight_state (s : State) (z : Nat) (n : Night) : (s.openedNight z n).state = .opened := by
  unfold State.openedNight State.settleCheck
  simp only
  split
  · rw [openingPlacements_state]
  · split
    · unfold Night.receive
      split
      · simp only; rw [openingPlacements_state]
      · rw [openingPlacements_state]
    · rw [openingPlacements_state]

/-! ### The measure -/

/-- The regular window starts a zone still has up to `t1`, after the last one taken. -/
def State.startsLeft (s : State) (t1 z cursor : Nat) : Nat :=
  match (s.entry z).bind (·.window) with
  | none => 0
  | some win => if nextStart win.start cursor ≤ t1 then (t1 - nextStart win.start cursor) / 86400 + 1 else 0

/-- The acts a zone can still bring. -/
def State.zoneLeft (s : State) (t1 : Nat) (p : Nat × Nat) : Nat := 3 * s.startsLeft t1 p.1 p.2 + s.nightInstants p.1

/-- The acts an advance can still bring. -/
def State.advanceLeft (s : State) (t1 : Nat) (zones : List (Nat × Nat)) (channels : List Nat) : Nat :=
  channels.length + (zones.map (s.zoneLeft t1)).sum

theorem nextStart_gt (m after : Nat) : after < nextStart m after := by
  unfold nextStart
  simp only
  split <;> omega

/-- Window starts of one zone lie a day or more apart. -/
theorem nextStart_apart (m after : Nat) : nextStart m after + 86400 ≤ nextStart m (nextStart m after) := by
  unfold nextStart
  simp only
  split <;> split <;> omega

/-- An instant taken as a window start leaves one start fewer. -/
theorem startsLeft_step {s : State} {t1 z c : Nat} {win : Window} (h : (s.entry z).bind (·.window) = some win)
    (hw : nextStart win.start c ≤ t1) : s.startsLeft t1 z (nextStart win.start c) + 1 ≤ s.startsLeft t1 z c := by
  unfold State.startsLeft
  rw [h]
  simp only
  rw [if_pos hw]
  have := nextStart_apart win.start c
  split <;> omega

theorem startsLeft_congr {s t : State} (h : ∀ z, t.entry z = s.entry z) (t1 z c : Nat) :
    t.startsLeft t1 z c = s.startsLeft t1 z c := by
  unfold State.startsLeft
  rw [h]

/-! ### What may come next -/

/-- An act of a zone's earliest instants is an act of its instants. -/
theorem mem_earliest {xs : List (Nat × Act)} {a : Act} (h : a ∈ earliest xs) : ∃ x, (x, a) ∈ xs ∧ ∀ y ∈ xs, x ≤ y.1 := by
  unfold earliest at h
  split at h
  · cases h
  · rename_i t ht
    obtain ⟨p, hp, he⟩ := List.mem_filterMap.1 h
    split at he
    · rename_i hpt
      cases he
      refine ⟨p.1, hp, fun y hy => ?_⟩
      rw [hpt]
      exact (List.min?_eq_some_iff.1 ht).2 _ (List.mem_map_of_mem hy)
    · cases he

theorem mem_earliest_iff {xs : List (Nat × Act)} {a : Act} : a ∈ earliest xs ↔ ∃ x, (x, a) ∈ xs ∧ ∀ y ∈ xs, x ≤ y.1 := by
  refine ⟨mem_earliest, fun ⟨x, hx, hle⟩ => ?_⟩
  unfold earliest
  have : (xs.map (·.1)).min? = some x := List.min?_eq_some_iff.2
    ⟨List.mem_map_of_mem (f := (·.1)) hx, fun b hb => by
      obtain ⟨y, hy, rfl⟩ := List.mem_map.1 hb
      exact hle y hy⟩
  rw [this]
  exact List.mem_filterMap.2 ⟨(x, a), hx, by simp⟩

/-- The instants of a zone: the next regular window start, and what its nights bring (R23, R26 to R28, R33). -/
theorem mem_instants {s : State} {t0 t1 z c x : Nat} {a : Act} :
    (x, a) ∈ s.instants t0 t1 z c ↔
      (∃ win, (s.entry z).bind (·.window) = some win ∧ nextStart win.start c ≤ t1 ∧ x = nextStart win.start c ∧
        a = .regularStart z x) ∨
      ∃ d n, d < 3 ∧ s.night ⟨z, d⟩ = some n ∧ n.instant s.slotSeconds ⟨z, d⟩ = some (x, a) ∧ t0 < x ∧ x ≤ t1 := by
  unfold State.instants
  rw [List.mem_append]
  refine or_congr ?_ ?_
  · cases (s.entry z).bind (·.window) with
    | none => simp
    | some win =>
      simp only [Option.some.injEq, exists_eq_left']
      split
      · simp only [List.mem_singleton, Prod.mk.injEq]
        constructor
        · rintro ⟨rfl, rfl⟩; exact ⟨‹_›, rfl, rfl⟩
        · rintro ⟨_, rfl, rfl⟩; exact ⟨rfl, rfl⟩
      · rename_i h; simp [h]
  · constructor
    · intro h
      obtain ⟨⟨r, n⟩, hp, he⟩ := List.mem_filterMap.1 h
      obtain ⟨hd, hz, hn⟩ := mem_nights_desc hp
      obtain ⟨⟨y, b⟩, hi, hy⟩ := Option.bind_eq_some_iff.1 he
      obtain ⟨rz, d⟩ := r
      simp only at hz hd hn hi hy
      subst hz
      split at hy
      · rename_i hin
        cases hy
        unfold inAdvance at hin
        simp only [Bool.and_eq_true, decide_eq_true_eq] at hin
        exact ⟨d, n, hd, hn, hi, hin.1, hin.2⟩
      · cases hy
    · rintro ⟨d, n, hd, hn, hi, h0, h1⟩
      refine List.mem_filterMap.2 ⟨(⟨z, d⟩, n), ?_, ?_⟩
      · unfold Zone.nights
        refine List.mem_filterMap.2 ⟨d, by simp only [List.mem_cons, List.not_mem_nil, or_false]; omega, ?_⟩
        rw [show (s.zone z).night d = some n from hn]
        rfl
      · simp only [hi, Option.bind_some]
        rw [if_pos]
        unfold inAdvance
        simp [h0, h1]

/-! ### Every act uses up an instant -/

/-- An act of a zone: its night instants after it, and no other zone's more than before. -/
theorem act_zone {s : State} {t0 t1 b z c : Nat} {a : Act} (h : a ∈ earliest (s.instants t0 t1 z c)) :
    (∀ y, y ≠ z → (s.act t1 b a).nightInstants y ≤ s.nightInstants y) ∧
    ((∃ win, (s.entry z).bind (·.window) = some win ∧ nextStart win.start c ≤ t1 ∧ a = .regularStart z (nextStart win.start c) ∧
        (s.act t1 b a).nightInstants z ≤ s.nightInstants z + 2) ∨
      ((∀ y w, a ≠ .regularStart y w) ∧ (s.act t1 b a).nightInstants z + 1 ≤ s.nightInstants z)) := by
  have others : ∀ (u : State), (∀ y d, y ≠ z → u.night ⟨y, d⟩ = s.night ⟨y, d⟩) → ∀ y, y ≠ z →
      u.quiesce.nightInstants y ≤ s.nightInstants y := fun u hu y hy => by
    refine ((quiesce_noLater u).nightInstants y).trans ?_
    unfold State.nightInstants
    rw [hu y 0 hy, hu y 1 hy, hu y 2 hy]
  have drop : ∀ (u : State) (d k : Nat), d < 3 → (∀ e, e ≠ d → u.night ⟨z, e⟩ = s.night ⟨z, e⟩) →
      instantsLeft (u.night ⟨z, d⟩) + k ≤ instantsLeft (s.night ⟨z, d⟩) → u.quiesce.nightInstants z + k ≤ s.nightInstants z := by
    intro u d k hd hu hk
    refine (Nat.add_le_add_right ((quiesce_noLater u).nightInstants z) k).trans ?_
    unfold State.nightInstants
    match d, hd with
    | 0, _ => rw [hu 1 (by decide), hu 2 (by decide)]; omega
    | 1, _ => rw [hu 0 (by decide), hu 2 (by decide)]; omega
    | 2, _ => rw [hu 0 (by decide), hu 1 (by decide)]; omega
  obtain ⟨x, hx, _⟩ := mem_earliest h
  rcases mem_instants.1 hx with ⟨win, hwin, hle, rfl, rfl⟩ | ⟨d, n, hd, hn, hi, _, _⟩
  · have key : ∃ d, d < 3 ∧ (∀ q : NightRef, q ≠ ⟨z, d⟩ → (s.regularStart z (nextStart win.start c) t1).night q = s.night q) ∧
        instantsLeft ((s.regularStart z (nextStart win.start c) t1).night ⟨z, d⟩) ≤ instantsLeft (s.night ⟨z, d⟩) + 2 := by
      unfold State.regularStart
      split
      · exact ⟨0, by decide, fun _ _ => rfl, Nat.le_add_right _ _⟩
      · split
        · exact ⟨0, by decide, fun _ _ => rfl, Nat.le_add_right _ _⟩
        · simp only
          split
          · exact ⟨0, by decide, fun _ _ => rfl, Nat.le_add_right _ _⟩
          · split
            · exact ⟨0, by decide, fun _ _ => recordSkip_night _ _ _ _ _, by rw [recordSkip_night]; exact Nat.le_add_right _ _⟩
            · split
              · exact ⟨0, by decide, fun _ _ => recordSkip_night _ _ _ _ _, by rw [recordSkip_night]; exact Nat.le_add_right _ _⟩
              · rename_i d hfree
                have hd : d < 3 := by
                  unfold Zone.freeRegular at hfree
                  split at hfree
                  · cases hfree; decide
                  · split at hfree
                    · cases hfree; decide
                    · cases hfree
                split
                · exact ⟨0, by decide, fun _ _ => recordSkip_night _ _ _ _ _, by rw [recordSkip_night]; exact Nat.le_add_right _ _⟩
                · refine ⟨d, hd, fun q hq => ?_, ?_⟩
                  · rw [openNight_night _ _ _ _ hd, if_neg hq]
                  · rw [openNight_night _ _ _ _ hd, if_pos rfl]
                    rw [instantsLeft_some (openedNight_state _ _ _)]
                    exact Nat.le_add_left _ _
    obtain ⟨d, hd, hne, hle2⟩ := key
    refine ⟨others _ fun y e hy => hne _ (fun hc => hy (by cases hc; rfl)), Or.inl ⟨win, hwin, hle, rfl, ?_⟩⟩
    refine ((quiesce_noLater _).nightInstants z).trans ?_
    unfold State.nightInstants
    match d, hd with
    | 0, _ => rw [hne ⟨z, 1⟩ (by simp), hne ⟨z, 2⟩ (by simp)]; omega
    | 1, _ => rw [hne ⟨z, 0⟩ (by simp), hne ⟨z, 2⟩ (by simp)]; omega
    | 2, _ => rw [hne ⟨z, 0⟩ (by simp), hne ⟨z, 1⟩ (by simp)]; omega
  · unfold Night.instant at hi
    have drains : ∀ r : NightRef, r = ⟨z, d⟩ → (∀ q, q ≠ r → (s.enterDraining r).night q = s.night q) ∧
        instantsLeft ((s.enterDraining r).night r) = 0 := by
      rintro r rfl
      unfold State.enterDraining
      simp only [hn]
      split
      · refine ⟨fun q hq => ?_, ?_⟩
        · rw [night_setNight _ _ _ _ hd, if_neg hq]
        · rw [night_setNight _ _ _ _ hd, if_pos rfl]; rfl
      · unfold State.freeze
        simp only [hn]
        refine ⟨fun q hq => (night_setNight s ⟨z, d⟩ q _ hd).trans (if_neg hq), ?_⟩
        rw [show State.night { s.setNight ⟨z, d⟩ (some { n with state := .queued, mark := none }) with
          assess := { s.assess with queue := s.assess.queue ++ [⟨z, d⟩] } } ⟨z, d⟩ =
          (some { n with state := .queued, mark := none }) from (night_setNight s ⟨z, d⟩ ⟨z, d⟩ _ hd).trans (if_pos rfl)]
        rfl
    have finish : ∀ (u : State) (a : Act) (k : Nat), s.act t1 b a = u.quiesce → (∀ y w, a ≠ .regularStart y w) →
        (∀ q : NightRef, q ≠ ⟨z, d⟩ → u.night q = s.night q) →
        instantsLeft (u.night ⟨z, d⟩) + 1 ≤ instantsLeft (s.night ⟨z, d⟩) →
        (∀ y, y ≠ z → (s.act t1 b a).nightInstants y ≤ s.nightInstants y) ∧
        ((∃ win, (s.entry z).bind (·.window) = some win ∧ nextStart win.start c ≤ t1 ∧ a = .regularStart z (nextStart win.start c) ∧
            (s.act t1 b a).nightInstants z ≤ s.nightInstants z + 2) ∨
          ((∀ y w, a ≠ .regularStart y w) ∧ (s.act t1 b a).nightInstants z + 1 ≤ s.nightInstants z)) := by
      intro u a _ hu ha hne hlt
      rw [hu]
      exact ⟨others u fun y e hy => hne _ (fun hc => hy (by cases hc; rfl)),
        Or.inr ⟨ha, drop u d 1 hd (fun e he => hne _ (fun hc => he (by cases hc; rfl))) hlt⟩⟩
    cases hst : n.state with
    | armed =>
      rw [hst] at hi
      simp only at hi
      split at hi
      · rename_i hd2
        cases hi
        have hd2 : d = 2 := hd2
        subst hd2
        refine finish (s.surveyStart z t1) _ 0 rfl (fun _ _ => by simp) ?_ ?_
        · intro q hq
          unfold State.surveyStart
          simp only [hn, hst, ne_eq, not_true_eq_false, if_false]
          split
          · rw [recordSkip_night, releaseNight_night _ _ _ (by exact hd), if_neg hq]
          · split
            · rw [recordSkip_night, releaseNight_night _ _ _ (by exact hd), if_neg hq]
            · rw [openNight_night _ _ _ _ (by exact hd), if_neg hq]
        · have h3 : instantsLeft (s.night ⟨z, 2⟩) = 3 := by rw [hn, instantsLeft_some hst]; rfl
          rw [h3]
          unfold State.surveyStart
          simp only [hn, hst, ne_eq, not_true_eq_false, if_false]
          split
          · rw [recordSkip_night, releaseNight_night _ _ _ (by exact hd), if_pos rfl]; decide
          · split
            · rw [recordSkip_night, releaseNight_night _ _ _ (by exact hd), if_pos rfl]; decide
            · rw [openNight_night _ _ _ _ (by exact hd), if_pos rfl]
              rw [instantsLeft_some (openedNight_state _ _ _)]
              decide
      · cases hi
    | opened =>
      rw [hst] at hi
      cases hi
      have h2 : instantsLeft (s.night ⟨z, d⟩) = 2 := by rw [hn, instantsLeft_some hst]; rfl
      refine finish (s.windowEnds ⟨z, d⟩) _ 0 rfl (fun _ _ => by simp) ?_ ?_
      · intro q hq
        unfold State.windowEnds
        simp only [hn, hst, ne_eq, not_true_eq_false, if_false]
        split
        · exact (drains _ rfl).1 q hq
        · rw [night_setNight _ _ _ _ hd, if_neg hq]
      · rw [h2]
        unfold State.windowEnds
        simp only [hn, hst, ne_eq, not_true_eq_false, if_false]
        split
        · rw [(drains _ rfl).2]; decide
        · rw [night_setNight _ _ _ _ hd, if_pos rfl]; rfl
    | closing =>
      rw [hst] at hi
      cases hi
      have h1 : instantsLeft (s.night ⟨z, d⟩) = 1 := by rw [hn, instantsLeft_some hst]; rfl
      refine finish (s.deadlinePasses ⟨z, d⟩) _ 0 rfl (fun _ _ => by simp) ?_ ?_
      · intro q hq
        unfold State.deadlinePasses
        simp only [hn, hst, if_true]
        exact (drains _ rfl).1 q hq
      · rw [h1]
        unfold State.deadlinePasses
        simp only [hn, hst, if_true]
        rw [(drains _ rfl).2]
    | draining => rw [hst] at hi; cases hi
    | queued => rw [hst] at hi; cases hi
    | assessing => rw [hst] at hi; cases hi

theorem channelActs_noLater (s : State) (c b : Nat) : s.NoLater (s.channelActs c b) := by
  unfold State.channelActs
  split
  · exact State.NoLater.ofZones rfl
  · exact State.NoLater.trans (State.NoLater.ofZones rfl) (quiesce_noLater _)

theorem sum_map_le {α : Type} {f g : α → Nat} {l : List α} (h : ∀ p ∈ l, f p ≤ g p) : (l.map f).sum ≤ (l.map g).sum := by
  induction l with
  | nil => exact le_rfl
  | cons p rest ih =>
    simp only [List.map_cons, List.sum_cons]
    exact Nat.add_le_add (h p List.mem_cons_self) (ih fun q hq => h q (List.mem_cons_of_mem _ hq))

theorem sum_map_lt {α : Type} {f g : α → Nat} {l : List α} (h : ∀ p ∈ l, f p ≤ g p) {q : α} (hq : q ∈ l) (hlt : f q < g q) :
    (l.map f).sum < (l.map g).sum := by
  induction l with
  | nil => cases hq
  | cons p rest ih =>
    simp only [List.map_cons, List.sum_cons]
    rcases List.mem_cons.1 hq with rfl | hq
    · exact Nat.add_lt_add_of_lt_of_le hlt (sum_map_le fun x hx => h x (List.mem_cons_of_mem _ hx))
    · exact Nat.add_lt_add_of_le_of_lt (h p List.mem_cons_self) (ih (fun x hx => h x (List.mem_cons_of_mem _ hx)) hq)

/-- Every act that may come next leaves fewer acts to come. -/
theorem act_uses {s : State} {t0 t1 b : Nat} {zones : List (Nat × Nat)} {channels : List Nat} {a : Act}
    (hz : (zones.map (·.1)).Nodup) (h : a ∈ s.nextActs t0 t1 zones channels) :
    (s.act t1 b a).advanceLeft t1 (advanceCursors a zones) (remainingChannels a channels) < s.advanceLeft t1 zones channels := by
  have he : ∀ z, (s.act t1 b a).entry z = s.entry z := (act_frame s t1 b a).entry
  unfold State.nextActs at h
  rcases List.mem_append.1 h with h | h
  · obtain ⟨c, hc, rfl⟩ := List.mem_map.1 h
    unfold State.advanceLeft
    refine Nat.add_lt_add_of_lt_of_le ?_ (sum_map_le fun p _ => ?_)
    · exact List.length_filter_lt_length_iff_exists.2 ⟨c, hc, by simp⟩
    · unfold State.zoneLeft
      rw [startsLeft_congr he]
      exact Nat.add_le_add_left ((channelActs_noLater s c b).nightInstants p.1) _
  · obtain ⟨p, hp, ha⟩ := List.mem_flatMap.1 h
    obtain ⟨z, c⟩ := p
    change a ∈ earliest (s.instants t0 t1 z c) at ha
    obtain ⟨hne, hcase⟩ := act_zone (b := b) ha
    have uniq : ∀ q ∈ zones, q.1 = z → q = (z, c) := fun q hq hqz => List.inj_on_of_nodup_map hz hq hp hqz
    have hrem : remainingChannels a channels = channels := by
      rcases hcase with ⟨_, _, _, rfl, _⟩ | ⟨_, _⟩
      · rfl
      · obtain ⟨x, hx, _⟩ := mem_earliest ha
        rcases mem_instants.1 hx with ⟨_, _, _, _, rfl⟩ | ⟨d, n, _, _, hi, _, _⟩
        · rfl
        · unfold Night.instant at hi
          split at hi
          · split at hi <;> cases hi; rfl
          · cases hi; rfl
          · cases hi; rfl
          all_goals cases hi
    unfold State.advanceLeft
    rw [hrem]
    refine Nat.add_lt_add_left ?_ _
    rcases hcase with ⟨win, hwin, hle, rfl, hn⟩ | ⟨hnr, hn⟩
    · unfold advanceCursors
      simp only [List.map_map]
      refine sum_map_lt (q := (z, c)) (fun q hq => ?_) hp ?_
      · simp only [Function.comp]
        by_cases hqz : q.1 = z
        · rw [uniq q hq hqz]
          simp only [if_true, State.zoneLeft]
          rw [startsLeft_congr he]
          have := startsLeft_step hwin hle
          omega
        · simp only [if_neg hqz, State.zoneLeft]
          rw [startsLeft_congr he]
          exact Nat.add_le_add_left (hne _ hqz) _
      · simp only [Function.comp, if_true, State.zoneLeft]
        rw [startsLeft_congr he]
        have := startsLeft_step hwin hle
        omega
    · have hc : advanceCursors a zones = zones := by
        unfold advanceCursors
        split
        · exact absurd rfl (hnr _ _)
        · rfl
      rw [hc]
      refine sum_map_lt (q := (z, c)) (fun q hq => ?_) hp ?_
      · unfold State.zoneLeft
        rw [startsLeft_congr he]
        refine Nat.add_le_add_left ?_ _
        by_cases hqz : q.1 = z
        · rw [hqz]; exact Nat.le_of_succ_le hn
        · exact hne _ hqz
      · unfold State.zoneLeft
        rw [startsLeft_congr he]
        exact Nat.add_lt_add_left hn _

/-! ### The loop -/

/-- A choice consumes from the world's schedule and changes nothing else. -/
theorem choose_eq (n : Nat) (s : State) : ∃ w c, (choose n s).2 = { s with world := w, choices := c } := by
  unfold choose
  split
  · exact ⟨s.world, s.choices, rfl⟩
  · split
    · exact ⟨_, s.choices, rfl⟩
    · exact ⟨s.world, _, rfl⟩

theorem advanceCursors_keys (a : Act) (zones : List (Nat × Nat)) : (advanceCursors a zones).map (·.1) = zones.map (·.1) := by
  unfold advanceCursors
  split
  · rw [List.map_map]
    refine List.map_congr_left fun p _ => ?_
    simp only [Function.comp]
    split
    · exact Eq.symm ‹_›
    · rfl
  · rfl

/-- With fuel for the acts that are left, the loop is a run of the advance. -/
theorem advanceLoop_run (t0 t1 b k : Nat) (zones : List (Nat × Nat)) (channels : List Nat) (s : State)
    (hz : (zones.map (·.1)).Nodup) (hk : s.advanceLeft t1 zones channels ≤ k) :
    AdvanceRun t0 t1 b zones channels s (advanceLoop t0 t1 b k zones channels s) := by
  induction k generalizing zones channels s with
  | zero =>
    refine AdvanceRun.done _ _ _ ?_
    refine List.eq_nil_iff_forall_not_mem.2 fun a ha => ?_
    have := act_uses (b := b) hz ha
    omega
  | succ k ih =>
    unfold advanceLoop
    split
    · rename_i hnil
      exact AdvanceRun.done _ _ _ hnil
    · rename_i x rest hcons
      obtain ⟨w, c, hs⟩ := choose_eq (rest.length + 1) s
      simp only
      rw [hs]
      have hm : (x :: rest).getD (choose (rest.length + 1) s).1 x ∈ s.nextActs t0 t1 zones channels := by
        rw [hcons]; exact getD_mem _ _ _
      refine AdvanceRun.act _ _ _ _ _ w c hm (ih _ _ _ (by rw [advanceCursors_keys]; exact hz) ?_)
      have hu := act_uses (s := { s with world := w, choices := c }) (b := b) hz hm
      exact Nat.lt_succ_iff.1 (lt_of_lt_of_le hu hk)

theorem nightInstants_le (s : State) (z : Nat) : s.nightInstants z ≤ 9 := by
  have h : ∀ n, instantsLeft n ≤ 3 := fun n => by
    cases n with
    | none => exact Nat.zero_le _
    | some n => show n.state.instants ≤ 3; cases n.state <;> decide
  unfold State.nightInstants
  have := h (s.night ⟨z, 0⟩)
  have := h (s.night ⟨z, 1⟩)
  have := h (s.night ⟨z, 2⟩)
  omega

/-- The fuel of an advance is enough. -/
theorem advanceLeft_le (s : State) (t0 t1 : Nat) (zones channels : List Nat) (hc : channels.length ≤ 8) :
    s.advanceLeft t1 (zones.map fun z => (z, t0)) channels ≤ advanceFuel zones.length t0 t1 := by
  unfold State.advanceLeft advanceFuel
  refine Nat.add_le_add hc ?_
  induction zones with
  | nil => simp
  | cons z rest ih =>
    simp only [List.map_cons, List.sum_cons, List.length_cons]
    have h1 : s.zoneLeft t1 (z, t0) ≤ 3 * ((t1 - t0) / 86400 + 1) + 9 := by
      unfold State.zoneLeft
      refine Nat.add_le_add (Nat.mul_le_mul_left 3 ?_) (nightInstants_le s z)
      unfold State.startsLeft
      split
      · exact Nat.zero_le _
      · rename_i win _
        split
        · have := nextStart_gt win.start t0
          simp only at *
          omega
        · exact Nat.zero_le _
    rw [Nat.succ_mul]
    omega

/-- The ACTIVE zones are listed once each. -/
theorem activeZones_nodup (s : State) (h : Table.wf (some Zone.initial) s.zones = true) : s.activeZones.Nodup := by
  unfold State.activeZones
  generalize s.zones = t at h
  induction t with
  | nil => exact List.nodup_nil
  | cons p rest ih =>
    obtain ⟨i, v⟩ := p
    simp only [Table.wf, Bool.and_eq_true, List.all_eq_true, decide_eq_true_eq] at h
    rw [List.filterMap_cons]
    split
    · exact ih h.2
    · rename_i z hz
      refine List.nodup_cons.2 ⟨fun hm => ?_, ih h.2⟩
      obtain ⟨q, hq, he⟩ := List.mem_filterMap.1 hm
      have := h.1.1 q hq
      split at hz <;> cases hz
      split at he <;> cases he
      exact absurd this (lt_irrefl _)

end Sys2Proof.Machine
end

