-- ==== Sys2Proof/Laws/Drains.lean ====
section
/-! SUPPORT. What the two loops over nights do whose order the world chooses: exactly the draining nights whose wait is
over freeze, each once, at the tail of the assessment queue (R82); every unfrozen night of a stopped zone is released and
skipped, each once (R88). -/

namespace Sys2Proof.Machine

/-- A night after it froze (R82). -/
def Night.queued (n : Night) : Night := { n with state := .queued, mark := none }

/-- Every night is listed where its zone stands in the table. -/
theorem mem_nights_iff {s : State} (hc : Table.wf (some Zone.initial) s.zones = true) {r : NightRef} {n : Night} :
    (r, n) ∈ s.nights ↔ s.night r = some n := by
  unfold State.nights
  constructor
  · intro h
    obtain ⟨q, hq, hp⟩ := List.mem_flatMap.1 h
    obtain ⟨_, hz, hn⟩ := mem_nights_desc hp
    have hf := find_of_mem _ _ hc hq
    unfold State.night State.zone
    rw [show r.zone = q.1 from hz, hf]
    exact hn
  · intro h
    obtain ⟨z, d⟩ := r
    have h' : (s.zone z).night d = some n := h
    unfold State.zone at h'
    cases hf : Table.find z s.zones with
    | none =>
      rw [hf] at h'
      match d, h' with
      | 0, h' => cases h'
      | 1, h' => cases h'
      | 2, h' => cases h'
      | _ + 3, h' => cases h'
    | some v =>
      rw [hf] at h'
      have hv : v.night d = some n := h'
      refine List.mem_flatMap.2 ⟨(z, v), mem_of_find hf, ?_⟩
      unfold Zone.nights
      refine List.mem_filterMap.2 ⟨d, ?_, by rw [hv]; rfl⟩
      match d, hv with
      | 0, _ => decide
      | 1, _ => decide
      | 2, _ => decide
      | _ + 3, hv => cases hv

/-- The draining nights whose wait is over. -/
theorem mem_drained {s : State} (hc : Table.wf (some Zone.initial) s.zones = true) {r : NightRef} :
    r ∈ s.drained ↔ ∃ n, s.night r = some n ∧ s.waitOver n = true := by
  unfold State.drained
  rw [List.mem_filterMap]
  constructor
  · rintro ⟨⟨q, n⟩, hp, he⟩
    split at he
    · cases he; exact ⟨n, (mem_nights_iff hc).1 hp, ‹_›⟩
    · cases he
  · rintro ⟨n, hn, hw⟩
    exact ⟨(r, n), (mem_nights_iff hc).2 hn, if_pos hw⟩

/-- Each descriptor is listed once. -/
theorem nights_nodup {s : State} (hc : Table.wf (some Zone.initial) s.zones = true) : (s.nights.map (·.1)).Nodup := by
  unfold State.nights
  generalize s.zones = t at hc
  induction t with
  | nil => exact List.nodup_nil
  | cons p rest ih =>
    simp only [Table.wf, Bool.and_eq_true, List.all_eq_true, decide_eq_true_eq] at hc
    rw [List.flatMap_cons, List.map_append]
    refine List.Nodup.append ?_ (ih hc.2) ?_
    · unfold Zone.nights
      rw [List.map_filterMap]
      refine List.Nodup.filterMap ?_ (by decide)
      intro a b r ha hb
      cases hna : p.2.night a with
      | none => simp [hna] at ha
      | some x =>
        cases hnb : p.2.night b with
        | none => simp [hnb] at hb
        | some y =>
          simp [hna, hnb] at ha hb
          have := ha.trans hb.symm
          cases this
          rfl
    · intro r h1 h2
      obtain ⟨x, hx, rfl⟩ := List.mem_map.1 h1
      obtain ⟨y, hy, hxy⟩ := List.mem_map.1 h2
      obtain ⟨q, hq, hqy⟩ := List.mem_flatMap.1 hy
      have h3 := (mem_nights_desc hx).2.1
      have h4 := (mem_nights_desc hqy).2.1
      have := hc.1.1 q hq
      rw [hxy] at h4
      omega

theorem drained_nodup {s : State} (hc : Table.wf (some Zone.initial) s.zones = true) : s.drained.Nodup := by
  have h : s.drained.Sublist (s.nights.map (·.1)) := by
    unfold State.drained
    generalize s.nights = l
    induction l with
    | nil => exact List.Sublist.slnil
    | cons p rest ih =>
      rw [List.filterMap_cons]
      split
      · exact List.Sublist.cons _ ih
      · rename_i q hq
        split at hq
        · cases hq; exact List.Sublist.cons_cons _ ih
        · cases hq
  exact h.nodup (nights_nodup hc)

theorem freeze_eq {s : State} {r : NightRef} {n : Night} (h : s.night r = some n) :
    s.freeze r = { s.setNight r (some n.queued) with assess := { s.assess with queue := s.assess.queue ++ [r] } } := by
  unfold State.freeze
  rw [h]
  rfl

/-- Exactly the drained nights freeze, each once. -/
theorem settleDrainsLoop_spec (k : Nat) (s : State) (hc : Table.wf (some Zone.initial) s.zones = true)
    (hk : s.drained.length ≤ k) :
    ∃ rs : List NightRef, rs.Nodup ∧ (∀ r, r ∈ rs ↔ r ∈ s.drained) ∧
      (settleDrainsLoop k s).assess = { s.assess with queue := s.assess.queue ++ rs } ∧
      (∀ r, (settleDrainsLoop k s).night r = if r ∈ rs then (s.night r).map Night.queued else s.night r) ∧
      (settleDrainsLoop k s).chain = s.chain := by
  have none_left : ∀ u : State, u.drained = [] → ∃ rs : List NightRef, rs.Nodup ∧ (∀ r, r ∈ rs ↔ r ∈ u.drained) ∧
      u.assess = { u.assess with queue := u.assess.queue ++ rs } ∧
      (∀ r, u.night r = if r ∈ rs then (u.night r).map Night.queued else u.night r) ∧ u.chain = u.chain := fun u hu =>
    ⟨[], List.nodup_nil, fun r => by rw [hu], by rw [List.append_nil], fun r => by simp, rfl⟩
  induction k generalizing s with
  | zero => exact none_left s (List.length_eq_zero_iff.1 (Nat.le_zero.1 hk))
  | succ k ih =>
    unfold settleDrainsLoop
    split
    · exact none_left s ‹_›
    · rename_i q rest hd
      obtain ⟨w, c, hs⟩ := choose_eq (rest.length + 1) s
      simp only
      rw [hs]
      generalize hr0 : (q :: rest).getD (choose (rest.length + 1) s).1 q = r0
      have hm : r0 ∈ s.drained := by rw [hd, ← hr0]; exact getD_mem _ _ _
      obtain ⟨n, hn, hw⟩ := (mem_drained hc).1 hm
      have hdesc := drained_desc hm
      have hu := freeze_eq (s := { s with world := w, choices := c }) (show State.night _ r0 = some n from hn)
      rw [hu]
      generalize hu' : ({ ({ s with world := w, choices := c } : State).setNight r0 (some n.queued) with
        assess := { s.assess with queue := s.assess.queue ++ [r0] } } : State) = u at *
      have hnight : ∀ r, u.night r = if r = r0 then some n.queued else s.night r := fun r => by
        rw [← hu']
        exact night_setNight { s with world := w, choices := c } r0 r _ hdesc
      have hwait : ∀ m, u.waitOver m = s.waitOver m := fun m => by rw [← hu']; rfl
      have hcu : Table.wf (some Zone.initial) u.zones = true := by
        rw [← hu']
        exact setZone_wf { s with world := w, choices := c } _ _ hc
      have hmem : ∀ r, r ∈ u.drained ↔ r ∈ s.drained ∧ r ≠ r0 := fun r => by
        rw [mem_drained hcu, mem_drained hc]
        simp only [hnight, hwait]
        by_cases hr : r = r0
        · subst hr
          simp only [if_true, Option.some.injEq, exists_eq_left']
          simp [State.waitOver, Night.queued]
        · simp [hr]
      have hlen : u.drained.length ≤ k := by
        have h1 : u.drained ⊆ s.drained.erase r0 := fun r hr => by
          obtain ⟨h1, h2⟩ := (hmem r).1 hr
          exact (List.mem_erase_of_ne h2).2 h1
        have h2 := ((drained_nodup hcu).subperm h1).length_le
        rw [List.length_erase_of_mem hm] at h2
        omega
      obtain ⟨rs, h1, h2, h3, h4, h5⟩ := ih u hcu hlen
      refine ⟨r0 :: rs, List.nodup_cons.2 ⟨fun h => ((hmem r0).1 ((h2 r0).1 h)).2 rfl, h1⟩, fun r => ?_, ?_, fun r => ?_, ?_⟩
      · rw [List.mem_cons, h2, hmem]
        by_cases hr : r = r0
        · subst hr; simp [hm]
        · simp [hr]
      · rw [h3, ← hu']
        simp
      · rw [h4, hnight]
        by_cases hr : r = r0
        · subst hr
          rw [if_neg (fun h => ((hmem r).1 ((h2 r).1 h)).2 rfl)]
          simp [hn]
        · simp [hr]
      · rw [h5, ← hu']
        rfl

/-- What follows an act on nights or readings (R51, R82): an application with no night unreached ends, and then exactly
the draining nights whose wait is over freeze. -/
theorem quiesce_spec (s : State) (hc : Table.wf (some Zone.initial) s.zones = true) :
    ∃ rs : List NightRef, rs.Nodup ∧ (∀ r, r ∈ rs ↔ ∃ n, s.night r = some n ∧ s.endApplication.waitOver n = true) ∧
      s.quiesce.assess = { s.assess with queue := s.assess.queue ++ rs } ∧
      (∀ r, s.quiesce.night r = if r ∈ rs then (s.night r).map Night.queued else s.night r) ∧
      s.quiesce.chain = s.endApplication.chain := by
  have hz : s.endApplication.zones = s.zones ∧ s.endApplication.assess = s.assess := by
    unfold State.endApplication
    split
    · split <;> exact ⟨rfl, rfl⟩
    · exact ⟨rfl, rfl⟩
  have hn : ∀ r, s.endApplication.night r = s.night r := fun r => by
    unfold State.night State.zone
    rw [hz.1]
  have hce : Table.wf (some Zone.initial) s.endApplication.zones = true := by rw [hz.1]; exact hc
  obtain ⟨rs, h1, h2, h3, h4, h5⟩ := settleDrainsLoop_spec _ _ hce (le_refl s.endApplication.drained.length)
  refine ⟨rs, h1, fun r => ?_, ?_, fun r => ?_, h5⟩
  · rw [h2, mem_drained hce]
    simp only [hn]
  · exact h3.trans (by rw [hz.2])
  · exact (h4 r).trans (by rw [hn])

/-! ### ZONE STOP: the unfrozen nights stopped, in the order the world chooses (R88) -/

/-- A state with the world's schedule and the count of free choices replaced. -/
theorem joinQueue_world (s : State) (e : Nat) (w : List Nat) (c : Nat) :
    State.joinQueue { s with world := w, choices := c } e = { s.joinQueue e with world := w, choices := c } := by
  unfold State.joinQueue
  by_cases h : (s.queued e || (s.settings.noticeMode = .grouped && s.blocked e)) = true
  · rw [if_pos h]
    exact if_pos h
  · rw [if_neg h]
    exact if_neg h

theorem raise_world (s : State) (z : Nat) (f : ZoneFlag) (w : List Nat) (c : Nat) :
    State.raise { s with world := w, choices := c } z f = { s.raise z f with world := w, choices := c } := by
  unfold State.raise
  by_cases h : (s.zone z).flags.get f = true
  · rw [if_pos h]
    exact if_pos h
  · rw [if_neg h]
    refine (if_neg h).trans ?_
    exact joinQueue_world (s.setZone z { s.zone z with flags := (s.zone z).flags.set f }) z w c

/-- The skip of a night that ZONE STOP releases, whatever the world has scheduled. -/
theorem stopSkip_world (s : State) (r : NightRef) (z day : Nat) (w : List Nat) (c : Nat) :
    (State.releaseNight { s with world := w, choices := c } r).recordSkip z .stopped day =
      { (s.releaseNight r).recordSkip z .stopped day with world := w, choices := c } := by
  unfold State.recordSkip
  simp only [reduceCtorEq, if_false]
  exact raise_world ((s.releaseNight r).setZone z
    { (s.releaseNight r).zone z with
      skip := some (nextSkip ((s.releaseNight r).zone z).skip ((s.releaseNight r).zone z).flags.skip .stopped day) }) z .skip w c

/-- A zone's night, as it stood in `s`, stopped in `x`. -/
def stopOne (s : State) (z : Nat) (x : State) (d : Nat) : State :=
  match s.night { zone := z, desc := d } with
  | none => x
  | some n => (x.releaseNight { zone := z, desc := d }).recordSkip z .stopped (n.start / 86400)

theorem stopOne_world (s : State) (z : Nat) (x : State) (d : Nat) (w : List Nat) (c : Nat) :
    stopOne s z { x with world := w, choices := c } d = { stopOne s z x d with world := w, choices := c } := by
  unfold stopOne
  split
  · rfl
  · exact stopSkip_world _ _ _ _ _ _

theorem foldl_stopOne_world (s : State) (z : Nat) (ds : List Nat) (x : State) (w : List Nat) (c : Nat) :
    ds.foldl (stopOne s z) { x with world := w, choices := c } = { ds.foldl (stopOne s z) x with world := w, choices := c } := by
  induction ds generalizing x with
  | nil => rfl
  | cons d rest ih => rw [List.foldl_cons, stopOne_world, ih]; rfl

theorem stopOne_night (s : State) (z : Nat) (x : State) (d e : Nat) (hd : d < 3) (hne : e ≠ d) :
    (stopOne s z x d).night { zone := z, desc := e } = x.night { zone := z, desc := e } := by
  unfold stopOne
  split
  · rfl
  · rw [recordSkip_night, releaseNight_night _ _ _ hd, if_neg]
    intro h
    cases h
    exact hne rfl

theorem mem_unfrozen {s : State} {z d : Nat} :
    d ∈ (s.zone z).unfrozen ↔ d < 3 ∧ ∃ n, s.night { zone := z, desc := d } = some n ∧ n.frozen = false := by
  unfold Zone.unfrozen
  rw [List.mem_filter, Option.any_eq_true]
  refine and_congr ?_ (exists_congr fun n => and_congr_right fun _ => by simp)
  simp only [List.mem_cons, List.not_mem_nil, or_false]
  omega

/-- Every unfrozen night of the zone is stopped once, in some order. -/
theorem stopNightsLoop_spec (k z : Nat) (s : State) (hk : (s.zone z).unfrozen.length ≤ k) :
    ∃ (ds world : List Nat) (choices : Nat), ds.Perm (s.zone z).unfrozen ∧
      stopNightsLoop k z s = { ds.foldl (stopOne s z) s with world := world, choices := choices } := by
  have done : ∀ u : State, (u.zone z).unfrozen = [] → ∃ (ds world : List Nat) (choices : Nat), ds.Perm (u.zone z).unfrozen ∧
      u = { ds.foldl (stopOne u z) u with world := world, choices := choices } := fun u hu =>
    ⟨[], u.world, u.choices, by rw [hu], rfl⟩
  induction k generalizing s with
  | zero => exact done s (List.length_eq_zero_iff.1 (Nat.le_zero.1 hk))
  | succ k ih =>
    unfold stopNightsLoop
    split
    · exact done s ‹_›
    · rename_i q rest hd
      obtain ⟨w0, c0, hs⟩ := choose_eq (rest.length + 1) s
      simp only
      rw [hs]
      generalize hd0 : (q :: rest).getD (choose (rest.length + 1) s).1 q = d
      have hm : d ∈ (s.zone z).unfrozen := by rw [hd, ← hd0]; exact getD_mem _ _ _
      obtain ⟨hlt, n, hn, hf⟩ := mem_unfrozen.1 hm
      have hstop : State.stopNight { s with world := w0, choices := c0 } { zone := z, desc := d } =
          { stopOne s z s d with world := w0, choices := c0 } := by
        unfold State.stopNight stopOne
        rw [show State.night { s with world := w0, choices := c0 } { zone := z, desc := d } = some n from hn, hn]
        exact stopSkip_world _ _ _ _ _ _
      rw [hstop]
      generalize hu : ({ stopOne s z s d with world := w0, choices := c0 } : State) = u
      have hnight : ∀ e, e ≠ d → u.night { zone := z, desc := e } = s.night { zone := z, desc := e } := fun e he => by
        rw [← hu]
        exact stopOne_night s z s d e hlt he
      have hgone : u.night { zone := z, desc := d } = none := by
        rw [← hu]
        show (stopOne s z s d).night _ = _
        unfold stopOne
        rw [hn]
        simp only
        rw [recordSkip_night, releaseNight_night _ _ _ hlt, if_pos rfl]
      have hun : (u.zone z).unfrozen = (s.zone z).unfrozen.filter (· ≠ d) := by
        unfold Zone.unfrozen
        rw [List.filter_filter]
        refine List.filter_congr fun e _ => ?_
        by_cases he : e = d
        · subst he
          rw [show (u.zone z).night e = none from hgone]
          simp
        · rw [show (u.zone z).night e = (s.zone z).night e from hnight e he]
          simp [he]
      have hnd : (s.zone z).unfrozen.Nodup := by
        unfold Zone.unfrozen
        exact List.Nodup.filter _ (by decide)
      have hlen : (u.zone z).unfrozen.length ≤ k := by
        rw [hun]
        have : ((s.zone z).unfrozen.filter (· ≠ d)).length < _ := List.length_filter_lt_length_iff_exists.2 ⟨d, hm, by simp⟩
        omega
      obtain ⟨ds, w, c, hp, he⟩ := ih u hlen
      refine ⟨d :: ds, w, c, ?_, ?_⟩
      · refine (List.Perm.cons d hp).trans ?_
        rw [hun]
        have h1 : (s.zone z).unfrozen.filter (· ≠ d) = (s.zone z).unfrozen.erase d := by
          rw [hnd.erase_eq_filter]
          exact List.filter_congr fun e _ => by by_cases he : e = d <;> simp [he]
        rw [h1]
        exact (List.perm_cons_erase hm).symm
      · rw [he, List.foldl_cons]
        have hcongr : ds.foldl (stopOne u z) u = ds.foldl (stopOne s z) u := by
          refine List.foldl_ext _ _ _ fun x e hmem => ?_
          have hne : e ≠ d := by
            have := hp.mem_iff.1 hmem
            rw [hun] at this
            simpa using (List.mem_filter.1 this).2
          unfold stopOne
          rw [hnight e hne]
        rw [hcongr, ← hu, foldl_stopOne_world]

/-- ZONE STOP's nights: every unfrozen night released and skipped once (R88). -/
theorem stopNights_spec (s : State) (z : Nat) :
    ∃ (ds world : List Nat) (choices : Nat), ds.Perm (s.zone z).unfrozen ∧
      s.stopNights z = { ds.foldl (stopOne s z) s with world := world, choices := choices } :=
  stopNightsLoop_spec 3 z s (List.length_filter_le _ _)

end Sys2Proof.Machine
end

