-- ==== Sys2Proof/Laws/Requests.lean ====
section
/-! SUPPORT. Executing a request: no handler touches the link or the queue of commands. -/

namespace Sys2Proof.Machine

/-- What an execution leaves has this link and this queue of commands. -/
def Ran.keeps (s : State) : Ran → Prop
  | .done _ _ t _ => t.link = s.link ∧ t.pending = s.pending
  | .wait => True

theorem keeps_refuse (s : State) (st : Status) : Ran.keeps s (.refuse st s) := ⟨rfl, rfl⟩

theorem keeps_ok (s t : State) (f : List Byte) (hl : t.link = s.link) (hp : t.pending = s.pending) : Ran.keeps s (.ok f t) := ⟨hl, hp⟩

theorem keeps_night {s t : State} (f : List Byte) (h : NightFrame s t) : Ran.keeps s (.ok f t) := ⟨h.link, h.pending⟩

theorem keeps_onZone (s : State) (z : Nat) (f : ZoneEntry → Ran) (h : ∀ e, Ran.keeps s (f e)) : Ran.keeps s (onZone s z f) := by
  unfold onZone
  split
  · exact keeps_refuse _ _
  · exact h _

theorem keeps_onMeter (s : State) (tag : Nat) (f : Nat → Meter → Ran) (h : ∀ i m, Ran.keeps s (f i m)) :
    Ran.keeps s (onMeter s tag f) := by
  unfold onMeter
  split
  · exact keeps_refuse _ _
  · split
    · exact keeps_refuse _ _
    · exact h _ _

/-! ### Zones and surveys -/

theorem keeps_zoneDefine (s : State) (z : Nat) : Ran.keeps s (s.runZoneDefine z) := by
  unfold State.runZoneDefine
  split <;> exact ⟨rfl, rfl⟩

theorem keeps_zoneStart (s : State) (z : Nat) : Ran.keeps s (s.runZoneStart z) := by
  unfold State.runZoneStart
  split
  · exact keeps_refuse _ _
  · refine keeps_onZone _ _ _ fun e => ?_
    split <;> exact ⟨rfl, rfl⟩

theorem keeps_zoneStop (s : State) (z : Nat) : Ran.keeps s (s.runZoneStop z) := by
  unfold State.runZoneStop
  refine keeps_onZone _ _ _ fun e => ?_
  split
  · exact keeps_refuse _ _
  · have h := (stopNights_frame (s.setEntry z (some { e with active := false })) z).trans (quiesce_frame _)
    exact keeps_ok _ _ _ h.link h.pending

theorem keeps_zoneUndefine (s : State) (z : Nat) : Ran.keeps s (s.runZoneUndefine z) := by
  unfold State.runZoneUndefine
  refine keeps_onZone _ _ _ fun e => ?_
  simp only
  repeat' split
  all_goals exact ⟨rfl, rfl⟩

theorem keeps_zoneSetWindow (s : State) (z : Nat) (f : WindowSpec) : Ran.keeps s (s.runZoneSetWindow z f) := by
  unfold State.runZoneSetWindow
  refine keeps_onZone _ _ _ fun e => ?_
  simp only
  repeat' split
  all_goals exact ⟨rfl, rfl⟩

theorem keeps_zoneSetAllowance (s : State) (z a b : Nat) (us : List User) : Ran.keeps s (s.runZoneSetAllowance z a b us) := by
  unfold State.runZoneSetAllowance
  refine keeps_onZone _ _ _ fun e => ?_
  split <;> exact ⟨rfl, rfl⟩

theorem keeps_zoneSetTests (s : State) (z : Nat) (t : Tests) : Ran.keeps s (s.runZoneSetTests z t) := by
  unfold State.runZoneSetTests
  exact keeps_onZone _ _ _ fun e => ⟨rfl, rfl⟩

theorem widenSettle_link (s : State) (z : Nat) (p : Span) : (s.widenSettle z p).link = s.link ∧ (s.widenSettle z p).pending = s.pending := by
  unfold State.widenSettle
  split <;> exact ⟨rfl, rfl⟩

theorem keeps_disturb (s : State) (z a b : Nat) : Ran.keeps s (s.runDisturb z a b) := by
  unfold State.runDisturb
  refine keeps_onZone _ _ _ fun e => ?_
  split
  · exact keeps_refuse _ _
  · exact widenSettle_link _ _ _

theorem armSurvey_frame (s : State) (z : Nat) (n : Night) : NightFrame s (s.armSurvey z n) :=
  ((releaseNight_frame s _).trans (setNight_frame _ _ _)).trans (quiesce_frame _)

theorem keeps_surveyArm (s : State) (z : Nat) (f : SurveySpec) (b : Bool) : Ran.keeps s (s.runSurveyArm z f b) := by
  unfold State.runSurveyArm
  split
  · exact keeps_refuse _ _
  · refine keeps_onZone _ _ _ fun e => ?_
    simp only
    repeat' split
    all_goals first | exact keeps_refuse _ _ | exact keeps_night _ (armSurvey_frame _ _ _)

theorem keeps_surveyCancel (s : State) (z : Nat) : Ran.keeps s (s.runSurveyCancel z) := by
  unfold State.runSurveyCancel
  refine keeps_onZone _ _ _ fun e => ?_
  repeat' split
  all_goals first | exact keeps_refuse _ _ | exact keeps_night _ ((releaseNight_frame s _).trans (quiesce_frame _))

/-! ### Verdicts -/

theorem dispose_link (s : State) (z : Nat) (v : Verdict) : (s.dispose z v).link = s.link ∧ (s.dispose z v).pending = s.pending := by
  unfold State.dispose
  simp only
  have h := (raiseIf_frame (s.setVerdict z (v.releaseWaiting (s.tests z))) (s.zone z).verdict.waiting.isSome z .result).trans
    (raise_frame _ z .verdict)
  exact ⟨h.link, h.pending⟩

theorem repairDone_link (s : State) (z : Nat) : (s.repairDone z).link = s.link ∧ (s.repairDone z).pending = s.pending := by
  have h := raise_frame (s.setVerdict z (s.zone z).verdict.repaired) z .verdict
  unfold State.repairDone
  simp only
  split
  · exact ⟨(widenSettle_link _ _ _).1.trans h.link, (widenSettle_link _ _ _).2.trans h.pending⟩
  · exact ⟨h.link, h.pending⟩

theorem keeps_dispose (s : State) (z d : Nat) (b : Bool) : Ran.keeps s (s.runDispose z d b) := by
  unfold State.runDispose
  split
  · unfold State.runDismiss
    refine keeps_onZone _ _ _ fun e => ?_
    simp only
    split
    · exact keeps_refuse _ _
    · exact dispose_link _ _ _
  · unfold State.runConfirm
    refine keeps_onZone _ _ _ fun e => ?_
    simp only
    repeat' split
    all_goals first | exact keeps_refuse _ _ | exact dispose_link _ _ _
  · unfold State.runRepaired
    refine keeps_onZone _ _ _ fun e => ?_
    repeat' split
    all_goals first | exact keeps_refuse _ _ | exact repairDone_link _ _

theorem replaceVerdict_link (s : State) (z : Nat) (v : Verdict) :
    (s.replaceVerdict z v).link = s.link ∧ (s.replaceVerdict z v).pending = s.pending := by
  unfold State.replaceVerdict
  have h := raiseIf_frame (s.setVerdict z v) (((s.zone z).verdict.state) != v.state) z .verdict
  exact ⟨h.link, h.pending⟩

theorem keeps_rebaseline (s : State) (z : Nat) : Ran.keeps s (s.runRebaseline z) := by
  unfold State.runRebaseline
  exact keeps_onZone _ _ _ fun e => replaceVerdict_link _ _ _

theorem keeps_baselineGet (s : State) (z : Nat) : Ran.keeps s (s.runBaselineGet z) := by
  unfold State.runBaselineGet
  exact keeps_onZone _ _ _ fun e => ⟨rfl, rfl⟩

theorem keeps_baselinePut (s : State) (z : Nat) (b : Int) (n c : Nat) : Ran.keeps s (s.runBaselinePut z b n c) := by
  unfold State.runBaselinePut
  refine keeps_onZone _ _ _ fun e => ?_
  simp only
  split
  · exact keeps_refuse _ _
  · exact replaceVerdict_link _ _ _

theorem keeps_resultGet (s : State) (z n : Nat) : Ran.keeps s (s.runResultGet z n) := by
  unfold State.runResultGet
  exact keeps_onZone _ _ _ fun e => ⟨rfl, rfl⟩

theorem keeps_zoneStatus (s : State) (z : Nat) : Ran.keeps s (s.runZoneStatus z) := by
  unfold State.runZoneStatus
  exact keeps_onZone _ _ _ fun e => ⟨rfl, rfl⟩

/-! ### Meters, readings and channels -/

theorem keeps_meterDefine (s : State) (f : MeterSpec) : Ran.keeps s (s.runMeterDefine f) := by
  unfold State.runMeterDefine
  simp only
  repeat' split
  all_goals exact ⟨rfl, rfl⟩

theorem emptyExceptions_link (s : State) (i : Nat) : (s.emptyExceptions i).link = s.link ∧ (s.emptyExceptions i).pending = s.pending := by
  unfold State.emptyExceptions
  split <;> exact ⟨rfl, rfl⟩

theorem foldEmpty_link (ps : List (Nat × Meter)) (s : State) :
    (ps.foldl (fun s p => s.emptyExceptions p.1) s).link = s.link ∧ (ps.foldl (fun s p => s.emptyExceptions p.1) s).pending = s.pending := by
  induction ps generalizing s with
  | nil => exact ⟨rfl, rfl⟩
  | cons p rest ih =>
    have h := emptyExceptions_link s p.1
    exact ⟨(ih _).1.trans h.1, (ih _).2.trans h.2⟩

theorem keeps_meterStatus (s : State) (tag : Nat) : Ran.keeps s (s.runMeterStatus tag) := by
  unfold State.runMeterStatus
  exact keeps_onMeter _ _ _ fun i m => emptyExceptions_link _ _

theorem keeps_exceptionsTag (s : State) (tag : Nat) : Ran.keeps s (s.runExceptionsTag tag) := by
  unfold State.runExceptionsTag
  exact keeps_onMeter _ _ _ fun i m => emptyExceptions_link _ _

theorem keeps_exceptionsSweep (s : State) (i : Nat) : Ran.keeps s (s.runExceptionsSweep i) := foldEmpty_link _ _

theorem takeRecords_keeps (base : Nat) (rs : List ReadingSpec) (s : State) :
    (State.takeRecords base rs s).2.link = s.link ∧ (State.takeRecords base rs s).2.pending = s.pending := by
  induction rs generalizing s with
  | nil => exact ⟨rfl, rfl⟩
  | cons r rest ih =>
    unfold State.takeRecords
    simp only
    split
    · exact ih _
    · exact ih _

theorem keeps_readings (s : State) (base : Nat) (rs : List ReadingSpec) : Ran.keeps s (s.runReadings base rs) := takeRecords_keeps _ _ _

theorem cutMeter_link (s : State) (i t : Nat) : (s.cutMeter i t).link = s.link ∧ (s.cutMeter i t).pending = s.pending := by
  unfold State.cutMeter
  split <;> exact ⟨rfl, rfl⟩

theorem cutBound_link (s : State) (c : Nat) : (s.cutBound c).link = s.link ∧ (s.cutBound c).pending = s.pending := by
  unfold State.cutBound
  split
  · exact ⟨rfl, rfl⟩
  · exact cutMeter_link _ _ _

theorem setChannelSettings_link (s : State) (c a b n : Nat) :
    (s.setChannelSettings c a b n).link = s.link ∧ (s.setChannelSettings c a b n).pending = s.pending := by
  unfold State.setChannelSettings
  have h := quiesce_frame (((s.setChannel c ((s.channel c).configured a b n)).dequeueWhere fun w => w.origin = .channel c).cutBound c)
  exact ⟨h.link.trans (cutBound_link _ _).1, h.pending.trans (cutBound_link _ _).2⟩

theorem keeps_takeChannelSet (s : State) (c a b n : Nat) : Ran.keeps s (s.takeChannelSet c a b n) := by
  unfold State.takeChannelSet
  split
  · exact keeps_refuse _ _
  · exact setChannelSettings_link _ _ _ _ _

theorem keeps_channelSet (s : State) (c : Nat) (f : ChannelSpec) : Ran.keeps s (s.runChannelSet c f) := by
  unfold State.runChannelSet
  split
  · split
    · trivial
    · exact keeps_takeChannelSet _ _ _ _ _
  · exact ⟨rfl, rfl⟩

theorem removeMeter_link (s : State) (i : Nat) : (s.removeMeter i).link = s.link ∧ (s.removeMeter i).pending = s.pending := by
  unfold State.removeMeter
  simp only
  have h := quiesce_frame
    { (s.dequeueWhere fun w => w.meter = i).delMeter i with
      chain := ((s.dequeueWhere fun w => w.meter = i).delMeter i).chain.discardOf i }
  exact ⟨h.link, h.pending⟩

theorem keeps_takeRetire (s : State) (tag : Nat) : Ran.keeps s (s.takeRetire tag) := by
  unfold State.takeRetire
  refine keeps_onMeter _ _ _ fun i m => ?_
  split
  · exact keeps_refuse _ _
  · exact removeMeter_link _ _

theorem keeps_takeCut (s : State) (tag t : Nat) : Ran.keeps s (s.takeCut tag t) := by
  unfold State.takeCut
  exact keeps_onMeter _ _ _ fun i m => cutMeter_link _ _ _

/-! ### The part as a whole and streams -/

theorem setSlotLength_link (s : State) (n : Nat) : (s.setSlotLength n).link = s.link ∧ (s.setSlotLength n).pending = s.pending := by
  unfold State.setSlotLength
  split <;> exact ⟨rfl, rfl⟩

theorem setNoticeMode_link (s : State) (m : NoticeMode) : (s.setNoticeMode m).link = s.link ∧ (s.setNoticeMode m).pending = s.pending := by
  unfold State.setNoticeMode
  simp only
  split <;> exact ⟨rfl, rfl⟩

theorem applySystem_link (s : State) (f : SystemSpec) : (s.applySystem f).link = s.link ∧ (s.applySystem f).pending = s.pending := by
  unfold State.applySystem
  simp only
  split <;> split <;>
    first
    | exact ⟨rfl, rfl⟩
    | exact setNoticeMode_link _ _
    | exact setSlotLength_link _ _
    | exact ⟨(setNoticeMode_link _ _).1.trans (setSlotLength_link _ _).1, (setNoticeMode_link _ _).2.trans (setSlotLength_link _ _).2⟩

theorem keeps_systemSet (s : State) (f : SystemSpec) : Ran.keeps s (s.runSystemSet f) := by
  unfold State.runSystemSet
  split
  · exact keeps_refuse _ _
  · exact applySystem_link _ _

theorem retireEntry_link (s : State) (e : Nat) : (s.retireEntry e).link = s.link ∧ (s.retireEntry e).pending = s.pending := by
  unfold State.retireEntry
  split
  · unfold State.setBlocked; split <;> exact ⟨rfl, rfl⟩
  · exact ⟨rfl, rfl⟩

theorem clearFlags_link (s : State) (e f : Nat) : (s.clearFlags e f).link = s.link ∧ (s.clearFlags e f).pending = s.pending := by
  unfold State.clearFlags
  split <;> exact ⟨rfl, rfl⟩

theorem keeps_ack (s : State) (e f : Nat) : Ran.keeps s (s.runAck e f) :=
  ⟨(retireEntry_link _ _).1.trans (clearFlags_link _ _ _).1, (retireEntry_link _ _).2.trans (clearFlags_link _ _ _).2⟩

theorem keeps_clockSet (s : State) (t d : Option Nat) : Ran.keeps s (s.runClockSet t d) := by
  unfold State.runClockSet
  split
  · unfold State.runClockRun
    repeat' split
    all_goals
      first
      | exact keeps_refuse _ _
      | exact keeps_ok _ _ _ rfl rfl
      | exact keeps_ok _ _ _ (advance_frame _ _).link (advance_frame _ _).pending
  · unfold State.runClockCold
    split <;> exact ⟨rfl, rfl⟩

theorem keeps_rollcall (s : State) (a b m : Nat) : Ran.keeps s (s.runRollcall a b m) := by
  unfold State.runRollcall
  simp only
  split <;> exact ⟨rfl, rfl⟩

theorem keeps_rollcallNext (s : State) : Ran.keeps s s.runRollcallNext := by
  unfold State.runRollcallNext
  repeat' split
  all_goals exact ⟨rfl, rfl⟩

theorem keeps_rollcallStop (s : State) : Ran.keeps s s.runRollcallStop := by
  unfold State.runRollcallStop
  repeat' split
  all_goals exact ⟨rfl, rfl⟩

theorem keeps_profile (s : State) (z d : Nat) : Ran.keeps s (s.runProfile z d) := by
  unfold State.runProfile
  refine keeps_onZone _ _ _ fun e => ?_
  simp only
  repeat' split
  all_goals exact ⟨rfl, rfl⟩

/-- Executing a request never touches the link nor the queue of commands. -/
theorem keeps_runKind (s : State) (r : Request) : Ran.keeps s (s.runKind r) := by
  cases r with
  | identify => exact ⟨rfl, rfl⟩
  | systemSet f => exact keeps_systemSet s f
  | poolStatus => exact ⟨rfl, rfl⟩
  | flush => exact ⟨rfl, rfl⟩
  | ack e f => exact keeps_ack s e f
  | clockSet t d => exact keeps_clockSet s t d
  | surveyArm z f b => exact keeps_surveyArm s z f b
  | surveyCancel z => exact keeps_surveyCancel s z
  | zoneDefine z => exact keeps_zoneDefine s z
  | zoneStart z => exact keeps_zoneStart s z
  | zoneStop z => exact keeps_zoneStop s z
  | zoneUndefine z => exact keeps_zoneUndefine s z
  | zoneSetWindow z f => exact keeps_zoneSetWindow s z f
  | zoneSetAllowance z a b us => exact keeps_zoneSetAllowance s z a b us
  | zoneSetTests z t => exact keeps_zoneSetTests s z t
  | disturb z a b => exact keeps_disturb s z a b
  | meterDefine f => exact keeps_meterDefine s f
  | meterRetire t => exact keeps_onMeter s t _ fun _ _ => trivial
  | meterCut t c => exact keeps_onMeter s t _ fun _ _ => trivial
  | meterStatus t => exact keeps_meterStatus s t
  | exceptionsTag t => exact keeps_exceptionsTag s t
  | exceptionsSweep i => exact keeps_exceptionsSweep s i
  | readings b rs => exact keeps_readings s b rs
  | channelSet c f => exact keeps_channelSet s c f
  | dispose z d b => exact keeps_dispose s z d b
  | rebaseline z => exact keeps_rebaseline s z
  | baselineGet z => exact keeps_baselineGet s z
  | baselinePut z b n c => exact keeps_baselinePut s z b n c
  | resultGet z n => exact keeps_resultGet s z n
  | zoneStatus z => exact keeps_zoneStatus s z
  | rollcall a b m => exact keeps_rollcall s a b m
  | rollcallNext => exact keeps_rollcallNext s
  | rollcallStop => exact keeps_rollcallStop s
  | profile z d => exact keeps_profile s z d
  | unknown => exact ⟨rfl, rfl⟩
  | badLength => exact ⟨rfl, rfl⟩
  | badValue => exact ⟨rfl, rfl⟩

theorem keeps_runRequest (s : State) (r : Request) : Ran.keeps s (s.runRequest r) := by
  unfold State.runRequest
  split
  · exact keeps_runKind s r
  · exact keeps_refuse _ _

theorem keeps_takeKind (s : State) (r : Request) : Ran.keeps s (s.takeKind r) := by
  unfold State.takeKind
  split
  · exact keeps_takeRetire _ _
  · exact keeps_takeCut _ _ _
  · exact keeps_takeChannelSet _ _ _ _ _
  · trivial

end Sys2Proof.Machine
end

