-- ==== Sys2Proof/Laws/Link.lean ====
section
/-! SUPPORT. The link: how a request row becomes the execution of its request and its answer, and what starting
a frame leaves as it was. -/

namespace Sys2Proof.Machine

/-- Every request row is the reception of a good frame that carries its request. -/
theorem exec_request (c : Instr) (k tag : Byte) (r : Request) (s : State) (h : c.requestOf = some (k, tag, r)) :
    exec c s = .next (s.request k tag r) := by
  cases c <;> simp only [Instr.requestOf, Option.some.injEq, Prod.mk.injEq, reduceCtorEq] at h <;>
    obtain ⟨rfl, rfl, rfl⟩ := h <;> rfl

/-- A good frame that finds the head place free is served there. -/
theorem deliver_free {s : State} {h : Held} (h2 : s.link.head = none) : s.deliver h = s.serve h := by
  unfold State.deliver
  rw [h2]

/-- A part that is ready serves the request it receives in its head place. -/
theorem request_serve {s : State} {k tag : Byte} {r : Request} (hs : s.ready) :
    s.request k tag r = ((s.executing ⟨k, tag, r⟩).settle ⟨k, tag, r⟩ ((s.executing ⟨k, tag, r⟩).runRequest r)).afterwards := by
  obtain ⟨h1, h2, h3⟩ := hs
  have hd : s.receive k tag r = (s.executing ⟨k, tag, r⟩).settle ⟨k, tag, r⟩ ((s.executing ⟨k, tag, r⟩).runRequest r) :=
    (deliver_free (s := { s with link := { s.link with line := .idle, rx := .hunting } }) h2).trans rfl
  unfold State.request State.live
  rw [if_neg (by rw [h1]; decide)]
  exact congrArg State.afterwards hd

/-- A part that is ready executes the request it receives at once, and answers it. -/
theorem request_done {s : State} {k tag : Byte} {r : Request} {st : Status} {f : List Byte} {t : State} {b : Bool}
    (hs : s.ready) (h : (s.executing ⟨k, tag, r⟩).runRequest r = .done st f t b) :
    s.request k tag r = t.answer ⟨k, tag, r⟩ st f b := by
  rw [request_serve hs, h]
  rfl

/-- A part that is ready and receives a request that waits for the Chain Unit holds it in its head place. -/
theorem request_wait {s : State} {k tag : Byte} {r : Request} (hs : s.ready)
    (h : (s.executing ⟨k, tag, r⟩).runRequest r = .wait) : s.request k tag r = (s.executing ⟨k, tag, r⟩).afterwards := by
  rw [request_serve hs, h]
  rfl

/-- A request row on a ready part, its request executed: the row's outcome in one equation. -/
theorem exec_done {c : Instr} {s : State} {k tag : Byte} {r : Request} {st : Status} {f : List Byte} {t : State} {b : Bool}
    (hc : c.requestOf = some (k, tag, r)) (hs : s.ready) (h : (s.executing ⟨k, tag, r⟩).runRequest r = .done st f t b) :
    exec c s = .next (t.answer ⟨k, tag, r⟩ st f b) := by
  rw [exec_request c k tag r s hc, request_done hs h]

/-! ### The state a request is executed in

It differs from the state before in the link alone. -/

@[simp] theorem executing_zones (s : State) (h : Held) : (s.executing h).zones = s.zones := rfl
@[simp] theorem executing_meters (s : State) (h : Held) : (s.executing h).meters = s.meters := rfl
@[simp] theorem executing_clock (s : State) (h : Held) : (s.executing h).clock = s.clock := rfl
@[simp] theorem executing_settings (s : State) (h : Held) : (s.executing h).settings = s.settings := rfl
@[simp] theorem executing_channels (s : State) (h : Held) : (s.executing h).channels = s.channels := rfl
@[simp] theorem executing_intake (s : State) (h : Held) : (s.executing h).intake = s.intake := rfl
@[simp] theorem executing_chain (s : State) (h : Held) : (s.executing h).chain = s.chain := rfl
@[simp] theorem executing_assess (s : State) (h : Held) : (s.executing h).assess = s.assess := rfl
@[simp] theorem executing_notices (s : State) (h : Held) : (s.executing h).notices = s.notices := rfl
@[simp] theorem executing_stream (s : State) (h : Held) : (s.executing h).stream = s.stream := rfl
@[simp] theorem executing_pending (s : State) (h : Held) : (s.executing h).pending = s.pending := rfl
@[simp] theorem executing_world (s : State) (h : Held) : (s.executing h).world = s.world := rfl
@[simp] theorem executing_choices (s : State) (h : Held) : (s.executing h).choices = s.choices := rfl
@[simp] theorem executing_tagMap (s : State) (h : Held) : (s.executing h).tagMap = s.tagMap := rfl
@[simp] theorem executing_hostWaiting (s : State) (h : Held) : (s.executing h).hostWaiting = s.hostWaiting := rfl
@[simp] theorem executing_hostFree (s : State) (h : Held) : (s.executing h).hostFree = s.hostFree := rfl
@[simp] theorem executing_inHand (s : State) (h : Held) : (s.executing h).inHand = s.inHand := rfl
@[simp] theorem executing_outstanding (s : State) (h : Held) : (s.executing h).outstanding = s.outstanding := rfl
@[simp] theorem executing_nights (s : State) (h : Held) : (s.executing h).nights = s.nights := rfl
@[simp] theorem executing_regularHeld (s : State) (h : Held) : (s.executing h).regularHeld = s.regularHeld := rfl
@[simp] theorem executing_surveyHeld (s : State) (h : Held) : (s.executing h).surveyHeld = s.surveyHeld := rfl
@[simp] theorem executing_freeSlots (s : State) (h : Held) : (s.executing h).freeSlots = s.freeSlots := rfl
@[simp] theorem executing_slotSeconds (s : State) (h : Held) : (s.executing h).slotSeconds = s.slotSeconds := rfl
@[simp] theorem executing_activeZones (s : State) (h : Held) : (s.executing h).activeZones = s.activeZones := rfl
@[simp] theorem executing_zone (s : State) (h : Held) (z : Nat) : (s.executing h).zone z = s.zone z := rfl
@[simp] theorem executing_entry (s : State) (h : Held) (z : Nat) : (s.executing h).entry z = s.entry z := rfl
@[simp] theorem executing_meter (s : State) (h : Held) (i : Nat) : (s.executing h).meter i = s.meter i := rfl
@[simp] theorem executing_meterByTag (s : State) (h : Held) (tag : Nat) : (s.executing h).meterByTag tag = s.meterByTag tag := rfl
@[simp] theorem executing_boundMeter (s : State) (h : Held) (c : Nat) : (s.executing h).boundMeter c = s.boundMeter c := rfl
@[simp] theorem executing_boundary (s : State) (h : Held) (z : Nat) : (s.executing h).boundary z = s.boundary z := rfl
@[simp] theorem executing_channel (s : State) (h : Held) (c : Nat) : (s.executing h).channel c = s.channel c := rfl
@[simp] theorem executing_reserved (s : State) (h : Held) (c : Nat) : (s.executing h).reserved c = s.reserved c := rfl
@[simp] theorem executing_flagByte (s : State) (h : Held) (e : Nat) : (s.executing h).flagByte e = s.flagByte e := rfl
@[simp] theorem executing_blocked (s : State) (h : Held) (e : Nat) : (s.executing h).blocked e = s.blocked e := rfl
@[simp] theorem executing_queued (s : State) (h : Held) (e : Nat) : (s.executing h).queued e = s.queued e := rfl
@[simp] theorem executing_hasInflow (s : State) (h : Held) (z : Nat) : (s.executing h).hasInflow z = s.hasInflow z := rfl
@[simp] theorem executing_named (s : State) (h : Held) (z : Nat) : (s.executing h).named z = s.named z := rfl
@[simp] theorem executing_namedDefined (s : State) (h : Held) (z : Nat) : (s.executing h).namedDefined z = s.namedDefined z := rfl
@[simp] theorem executing_boundaryFull (s : State) (h : Held) (z : Nat) : (s.executing h).boundaryFull z = s.boundaryFull z := rfl
@[simp] theorem executing_weekday (s : State) (h : Held) (day : Nat) : (s.executing h).weekday day = s.weekday day := rfl
@[simp] theorem executing_meterRequired (s : State) (h : Held) (i : Nat) : (s.executing h).meterRequired i = s.meterRequired i := rfl
@[simp] theorem executing_boundInHand (s : State) (h : Held) (c : Nat) : (s.executing h).boundInHand c = s.boundInHand c := rfl
@[simp] theorem executing_tests (s : State) (h : Held) (z : Nat) : (s.executing h).tests z = s.tests z := rfl
@[simp] theorem executing_night (s : State) (h : Held) (r : NightRef) : (s.executing h).night r = s.night r := rfl

/-- A request past step 1 of R2 is carried out by its own rule. -/
theorem runRequest_inRange {s : State} {r : Request} (h : requestInRange r = true) : s.runRequest r = s.runKind r := if_pos h

/-- A request on a defined zone. -/
theorem onZone_some {s : State} {z : Nat} {e : ZoneEntry} (h : s.entry z = some e) (f : ZoneEntry → Ran) : onZone s z f = f e := by
  unfold onZone; rw [h]

/-- A request on an UNDEFINED zone. -/
theorem onZone_none {s : State} {z : Nat} (h : s.entry z = none) (f : ZoneEntry → Ran) : onZone s z f = .refuse .noSuch s := by
  unfold onZone; rw [h]

/-- A request on a meter the tag map holds. -/
theorem onMeter_some {s : State} {tag i : Nat} {m : Meter} (h : s.meterByTag tag = some i) (hm : s.meter i = some m)
    (f : Nat → Meter → Ran) : onMeter s tag f = f i m := by
  unfold onMeter; simp only [h, hm]

/-- A request on a tag the tag map does not hold. -/
theorem onMeter_none {s : State} {tag : Nat} (h : s.meterByTag tag = none) (f : Nat → Meter → Ran) :
    onMeter s tag f = .refuse .noSuch s := by
  unfold onMeter; simp only [h]

/-! ### What starting a frame leaves -/

namespace SameBlocks

theorem refl (s : State) : SameBlocks s s := ⟨fun _ => rfl, rfl, rfl, rfl, rfl, rfl, rfl, rfl, rfl, rfl, rfl⟩

theorem trans {s t u : State} (h : SameBlocks s t) (k : SameBlocks t u) : SameBlocks s u :=
  ⟨fun z => (k.zone z).trans (h.zone z), k.meters.trans h.meters, k.clock.trans h.clock, k.settings.trans h.settings,
    k.channels.trans h.channels, k.intake.trans h.intake, k.chain.trans h.chain, k.assess.trans h.assess,
    k.meterFlag.trans h.meterFlag, k.poolFlag.trans h.poolFlag, k.pending.trans h.pending⟩

/-- States that differ in the link, the stream and the world's choices only. -/
theorem ofLink {s t : State} (hz : t.zones = s.zones) (hm : t.meters = s.meters) (hc : t.clock = s.clock)
    (hs : t.settings = s.settings) (hch : t.channels = s.channels) (hi : t.intake = s.intake) (hn : t.chain = s.chain)
    (ha : t.assess = s.assess) (hq : t.notices = s.notices) (hp : t.pending = s.pending) : SameBlocks s t :=
  ⟨fun z => by simp [State.zone, hz], hm, hc, hs, hch, hi, hn, ha, by rw [hq], by rw [hq], hp⟩

end SameBlocks

theorem choose_blocks (n : Nat) (s : State) : SameBlocks s (choose n s).2 := by
  unfold choose
  split
  · exact SameBlocks.refl s
  · split <;> exact SameBlocks.ofLink rfl rfl rfl rfl rfl rfl rfl rfl rfl rfl

theorem choose_link (n : Nat) (s : State) : (choose n s).2.link = s.link := (choose_frame n s).link

theorem setBlocked_blocks (s : State) (e : Nat) (b : Bool) : SameBlocks s (s.setBlocked e b) := by
  unfold State.setBlocked
  split
  · exact ⟨fun _ => rfl, rfl, rfl, rfl, rfl, rfl, rfl, rfl, rfl, rfl, rfl⟩
  · refine ⟨fun z => ?_, rfl, rfl, rfl, rfl, rfl, rfl, rfl, rfl, rfl, rfl⟩
    rw [zone_setZone]
    split
    · subst_vars; rfl
    · rfl

theorem buildNotice_blocks (s : State) (e : Nat) : SameBlocks s (s.buildNotice e) := by
  have h : SameBlocks s { s with notices := { s.notices with queue := s.notices.queue.filter (· ≠ e) } } :=
    ⟨fun _ => rfl, rfl, rfl, rfl, rfl, rfl, rfl, rfl, rfl, rfl, rfl⟩
  unfold State.buildNotice
  simp only
  split
  · exact h.trans (setBlocked_blocks _ _ _)
  · exact h

theorem startNotice_blocks (s : State) : SameBlocks s s.startNotice := by
  unfold State.startNotice
  split
  · exact SameBlocks.refl s
  · exact (buildNotice_blocks _ _).trans (SameBlocks.ofLink rfl rfl rfl rfl rfl rfl rfl rfl rfl rfl)

theorem sendEnd_blocks (s : State) (st : Stream) (c : EndCause) (b : List Byte) : SameBlocks s (s.sendEnd st c b).2.2 :=
  SameBlocks.ofLink rfl rfl rfl rfl rfl rfl rfl rfl rfl rfl

theorem sendItems_blocks (s : State) (st : Stream) (x : StreamBody) (n : Nat) (b : List Byte) :
    SameBlocks s (s.sendItems st x n b).2.2 := SameBlocks.ofLink rfl rfl rfl rfl rfl rfl rfl rfl rfl rfl

theorem buildStream_blocks (s : State) (st : Stream) : SameBlocks s (s.buildStream st).2.2 := by
  have hw : ∀ n l, SameBlocks s (s.buildWalk st n l).2.2 := fun n l => by
    unfold State.buildWalk
    split
    · exact sendEnd_blocks _ _ _ _
    · exact sendItems_blocks _ _ _ _ _
  unfold State.buildStream
  split
  · exact sendEnd_blocks _ _ _ _
  · split
    · exact hw _ _
    · exact hw _ _
    · unfold State.buildProfile
      split
      · split
        · exact sendEnd_blocks _ _ _ _
        · exact sendItems_blocks _ _ _ _ _
      · exact sendEnd_blocks _ _ _ _

theorem startStream_blocks (s : State) : SameBlocks s s.startStream := by
  unfold State.startStream
  split
  · exact SameBlocks.refl s
  · exact (buildStream_blocks _ _).trans (SameBlocks.ofLink rfl rfl rfl rfl rfl rfl rfl rfl rfl rfl)

theorem startReject_blocks (s : State) : SameBlocks s s.startReject := by
  unfold State.startReject
  split
  · exact SameBlocks.refl s
  · exact SameBlocks.ofLink rfl rfl rfl rfl rfl rfl rfl rfl rfl rfl

theorem startAnswer_blocks (s : State) (h2 : s.link.second = none) : SameBlocks s s.startAnswer := by
  unfold State.startAnswer
  split
  · split
    · unfold State.startReply State.promote
      rw [show (s.send _ _).link.second = none from h2]
      exact SameBlocks.ofLink rfl rfl rfl rfl rfl rfl rfl rfl rfl rfl
    · exact startReject_blocks s
  · exact startReject_blocks s

theorem startOffer_blocks (s : State) (o : Offer) (h2 : s.link.second = none) : SameBlocks s (s.startOffer o) := by
  cases o with
  | answer => exact startAnswer_blocks s h2
  | notice => exact startNotice_blocks s
  | stream => exact startStream_blocks s

/-- The arbiter changes no block, where no request waits behind the reply it may start. -/
theorem afterwards_blocks (s : State) (h2 : s.link.second = none) : SameBlocks s s.afterwards := by
  unfold State.afterwards
  split
  · split
    · exact SameBlocks.refl s
    · rename_i o rest _
      exact (choose_blocks _ s).trans (startOffer_blocks _ _ (by rw [choose_link]; exact h2))
  · exact SameBlocks.refl s

theorem arbitrate_blocks (s : State) (h2 : s.link.second = none) : SameBlocks s s.arbitrate := by
  unfold State.arbitrate
  split
  · split
    · exact SameBlocks.refl s
    · exact startOffer_blocks _ _ h2
  · exact SameBlocks.refl s

/-- While the line is busy or held the arbiter does nothing. -/
theorem afterwards_busy (s : State) (h : s.link.free = false) : s.afterwards = s := by
  unfold State.afterwards
  simp [h]

/-- An answered request leaves every block as its execution left it. -/
theorem answer_blocks (s : State) (h : Held) (st : Status) (f : List Byte) (b : Bool) (h2 : s.link.second = none) :
    SameBlocks s (s.answer h st f b) := by
  have hr : SameBlocks s { s with link := s.link.reply h st f b } := SameBlocks.ofLink rfl rfl rfl rfl rfl rfl rfl rfl rfl rfl
  exact hr.trans (afterwards_blocks _ h2)

/-! ### What starting a frame does to the line -/

@[simp] theorem send_sending (s : State) (f : Frame) (x : Source) : (s.send f x).link.sending = some ⟨f, x⟩ := rfl

/-- A request moved up into the head place leaves the frame in transmission. -/
theorem promote_sending (s : State) : s.promote.link.sending = s.link.sending := by
  unfold State.promote
  split
  · rfl
  · rename_i h _
    have k := keeps_runRequest { s with link := { s.link with second := none, head := some { held := h, reply := none } } } h.request
    show (State.settle _ h (State.runRequest _ h.request)).link.sending = _
    cases hr : State.runRequest { s with link := { s.link with second := none, head := some { held := h, reply := none } } } h.request with
    | done st f t b =>
      rw [hr] at k
      exact (congrArg Link.sending k.1 :)
    | wait => rfl

/-- A started frame is in transmission. -/
theorem startOffer_sending {s : State} {o : Offer} (ho : o ∈ s.offers) : (s.startOffer o).link.sending.isSome := by
  have hrej : s.link.rejects ≠ [] → (s.startReject).link.sending.isSome := fun h => by
    unfold State.startReject
    split
    · contradiction
    · rfl
  unfold State.offers at ho
  cases o with
  | answer =>
    simp only [State.startOffer, State.startAnswer]
    have h : s.link.replying = true ∨ s.link.rejects ≠ [] := by
      by_cases hc : s.link.replying || !s.link.rejects.isEmpty
      · simpa using hc
      · rw [if_neg hc] at ho
        revert ho
        repeat split
        all_goals simp
    split
    · split
      · rw [State.startReply, promote_sending]; rfl
      · rename_i hr; exact hrej fun h0 => hr (Or.inr h0)
    · rename_i hn
      refine hrej (h.resolve_left fun hr => ?_)
      unfold Link.replying at hr
      cases hh : s.link.head with
      | none => rw [hh] at hr; cases hr
      | some x =>
        obtain ⟨y, rep⟩ := x
        cases rep with
        | none => rw [hh] at hr; cases hr
        | some rep => exact hn y rep hh
  | notice =>
    simp only [State.startOffer, State.startNotice]
    split
    · rename_i hq
      rw [hq] at ho
      revert ho
      repeat split
      all_goals simp_all
    · rfl
  | stream =>
    simp only [State.startOffer, State.startStream]
    split
    · rename_i hq
      rw [hq] at ho
      revert ho
      repeat split
      all_goals simp_all
    · rfl

theorem choose_offers (n : Nat) (s : State) : (choose n s).2.offers = s.offers := by
  unfold choose
  split
  · rfl
  · split <;> rfl

/-- The arbiter starts at most one frame on a free line: a second look finds nothing to do. -/
theorem afterwards_afterwards (s : State) : s.afterwards.afterwards = s.afterwards := by
  by_cases hf : s.link.free
  · unfold State.afterwards
    rw [if_pos hf]
    cases ho : s.offers with
    | nil => simp [ho, hf]
    | cons o rest =>
      have hb : ∀ k, ((choose (rest.length + 1) s).2.startOffer ((o :: rest).getD k o)).link.free = false := fun k => by
        have hm : (o :: rest).getD k o ∈ (choose (rest.length + 1) s).2.offers := by
          rw [choose_offers, ho, List.getD_eq_getElem?_getD]
          cases hk : (o :: rest)[k]? with
          | none => exact List.mem_cons_self
          | some x => exact List.mem_of_getElem? hk
        have := startOffer_sending hm
        unfold Link.free
        cases h : ((choose (rest.length + 1) s).2.startOffer ((o :: rest).getD k o)).link.sending with
        | none => rw [h] at this; cases this
        | some _ => rfl
      simp only [hb]
      rfl
  · rw [afterwards_busy s (by simpa using hf), afterwards_busy s (by simpa using hf)]

/-! ### The levels of TXD (R147) -/

theorem txdBits_idle {s : State} (h : s.link.sending = none) : s.txdBits = [] := by
  unfold State.txdBits
  rw [h]

theorem txdBits_sending {s : State} {x : Sending} (h : s.link.sending = some x) : s.txdBits = x.frame.line s.link.parity := by
  unfold State.txdBits
  rw [h]

/-- A frame that starts is the frame on TXD, with the parity the link holds. -/
@[simp] theorem send_txdBits (s : State) (f : Frame) (source : Source) : (s.send f source).txdBits = f.line s.link.parity := rfl

/-- TXD is high with no frame in transmission, in every bit time. -/
theorem txd_idle {s : State} (h : s.link.sending = none) (k : Nat) : s.txd k = true := by
  unfold State.txd
  rw [txdBits_idle h]
  rfl

/-- TXD is high from the bit time after the last stop bit on. -/
theorem txd_past {s : State} {k : Nat} (h : s.txdBits.length ≤ k) : s.txd k = true := by
  unfold State.txd
  rw [List.getD_eq_getElem?_getD, List.getElem?_eq_none h]
  rfl

end Sys2Proof.Machine
end

