-- ==== Sys2Proof/Laws/PerInstr.lean ====
section
/-! SUPPORT. One statement per command (family `RowCarriesItsRequest`): a request row's frame has the KIND of its
request, and a row the host can send carries a request a frame can hold. One lemma per constructor. -/

namespace Sys2Proof.Laws.RowCarriesItsRequest

/-- The KIND a row's frame carries is its request's (R160), and a well-formed row carries a well-formed request. -/
def Statement (i : Instr) : Prop :=
  ∀ k tag r, i.requestOf = some (k, tag, r) → k = r.kind ∧ (i.wellFormed = true → r.wellFormed = true)

/-- A row that carries no request. -/
theorem of_none {i : Instr} (h : i.requestOf = none) : Statement i := fun _ _ _ hr => by simp [h] at hr

/-- A row that carries a request. -/
theorem of_some {i : Instr} {k tag : Byte} {r : Request} (h : i.requestOf = some (k, tag, r)) (hk : k = r.kind)
    (hw : i.wellFormed = true → r.wellFormed = true) : Statement i := fun k' t' r' hr => by
  rw [h] at hr
  cases hr
  exact ⟨hk, hw⟩

theorem powerOn (resetLow : Bool) (straps : Straps) : Statement (.powerOn resetLow straps) := of_none rfl
theorem resetAssert : Statement (.resetAssert) := of_none rfl
theorem resetRelease (straps : Straps) : Statement (.resetRelease straps) := of_none rfl
theorem tick : Statement (.tick) := of_none rfl
theorem pulseFallingEdge (channel : Nat) : Statement (.pulseFallingEdge channel) := of_none rfl
theorem pulseRisingEdge (channel : Nat) (lowMicros : Nat) : Statement (.pulseRisingEdge channel lowMicros) := of_none rfl
theorem charError (received : List Byte) (levels : List Bool) : Statement (.charError received levels) := of_none rfl
theorem tooLong (len : Byte) : Statement (.tooLong len) := of_none rfl
theorem timeout (received : List Byte) : Statement (.timeout received) := of_none rfl
theorem frame (kind : Byte) (tag : Byte) (body : List Byte) (crc : BitVec 16) : Statement (.frame kind tag body crc) := of_none rfl
theorem unknownKind (kind : Byte) (tag : Byte) : Statement (.unknownKind kind tag) := of_none rfl
theorem transmissionEnd : Statement (.transmissionEnd) := of_none rfl
theorem streamIntervalExpiry : Statement (.streamIntervalExpiry) := of_none rfl
theorem holdAssert : Statement (.holdAssert) := of_none rfl
theorem holdDeassert : Statement (.holdDeassert) := of_none rfl
theorem identify (tag : Byte) : Statement (.identify tag) := of_some rfl rfl id
theorem systemSet (tag : Byte) (f : SystemSpec) : Statement (.systemSet tag f) := of_some rfl rfl id
theorem poolStatus (tag : Byte) : Statement (.poolStatus tag) := of_some rfl rfl id
theorem flush (tag : Byte) : Statement (.flush tag) := of_some rfl rfl id
theorem ack (tag : Byte) (entry : Nat) (flags : Nat) : Statement (.ack tag entry flags) := of_some rfl rfl id
theorem clockSet (tag : Byte) (time : Option Nat) (weekday : Option Nat) : Statement (.clockSet tag time weekday) := of_some rfl rfl id
theorem surveyArm (tag : Byte) (zone : Nat) (f : SurveySpec) : Statement (.surveyArm tag zone f) := of_some rfl rfl id
theorem surveyArmReplace (tag : Byte) (zone : Nat) (f : SurveySpec) : Statement (.surveyArmReplace tag zone f) := of_some rfl rfl id
theorem surveyCancel (tag : Byte) (zone : Nat) : Statement (.surveyCancel tag zone) := of_some rfl rfl id
theorem zoneDefine (tag : Byte) (zone : Nat) : Statement (.zoneDefine tag zone) := of_some rfl rfl id
theorem zoneStart (tag : Byte) (zone : Nat) : Statement (.zoneStart tag zone) := of_some rfl rfl id
theorem zoneStop (tag : Byte) (zone : Nat) : Statement (.zoneStop tag zone) := of_some rfl rfl id
theorem zoneUndefine (tag : Byte) (zone : Nat) : Statement (.zoneUndefine tag zone) := of_some rfl rfl id
theorem zoneSetWindow (tag : Byte) (zone : Nat) (f : WindowSpec) : Statement (.zoneSetWindow tag zone f) := of_some rfl rfl id
theorem zoneSetAllowance (tag : Byte) (zone : Nat) (properties : Nat) (perProperty : Nat) (users : List User) : Statement (.zoneSetAllowance tag zone properties perProperty users) := of_some rfl rfl id
theorem zoneSetTests (tag : Byte) (zone : Nat) (f : Tests) : Statement (.zoneSetTests tag zone f) := of_some rfl rfl id
theorem disturb (tag : Byte) (zone : Nat) (start : Nat) (stop : Nat) : Statement (.disturb tag zone start stop) := of_some rfl rfl id
theorem meterDefine (tag : Byte) (f : MeterSpec) : Statement (.meterDefine tag f) := of_some rfl rfl id
theorem meterRetire (tag : Byte) (meterTag : Nat) : Statement (.meterRetire tag meterTag) := of_some rfl rfl id
theorem retireTaken : Statement (.retireTaken) := of_none rfl
theorem meterCut (tag : Byte) (meterTag : Nat) (time : Nat) : Statement (.meterCut tag meterTag time) := of_some rfl rfl id
theorem cutTaken : Statement (.cutTaken) := of_none rfl
theorem meterStatus (tag : Byte) (meterTag : Nat) : Statement (.meterStatus tag meterTag) := of_some rfl rfl id
theorem meterExceptionsTag (tag : Byte) (meterTag : Nat) : Statement (.meterExceptionsTag tag meterTag) := of_some rfl rfl id
theorem meterExceptionsSweep (tag : Byte) (index : Nat) : Statement (.meterExceptionsSweep tag index) := of_some rfl rfl id
theorem readings (tag : Byte) (base : Nat) (records : List ReadingSpec) : Statement (.readings tag base records) := of_some rfl rfl id
theorem channelSet (tag : Byte) (channel : Nat) (f : ChannelSpec) : Statement (.channelSet tag channel f) :=
  of_some rfl rfl fun h => (Bool.and_eq_true_iff.1 h).1
theorem channelSetTaken : Statement (.channelSetTaken) := of_none rfl
theorem channelSetRead (tag : Byte) (channel : Nat) : Statement (.channelSetRead tag channel) := of_some rfl rfl (by simp [Instr.wellFormed, Request.wellFormed, fitsOpt])
theorem dismiss (tag : Byte) (zone : Nat) (absorb : Bool) : Statement (.dismiss tag zone absorb) := of_some rfl rfl (by simp [Instr.wellFormed, Request.wellFormed, fits])
theorem confirm (tag : Byte) (zone : Nat) (absorb : Bool) : Statement (.confirm tag zone absorb) := of_some rfl rfl (by simp [Instr.wellFormed, Request.wellFormed, fits])
theorem repaired (tag : Byte) (zone : Nat) (absorb : Bool) : Statement (.repaired tag zone absorb) := of_some rfl rfl (by simp [Instr.wellFormed, Request.wellFormed, fits])
theorem rebaseline (tag : Byte) (zone : Nat) : Statement (.rebaseline tag zone) := of_some rfl rfl id
theorem baselineGet (tag : Byte) (zone : Nat) : Statement (.baselineGet tag zone) := of_some rfl rfl id
theorem baselinePut (tag : Byte) (zone : Nat) (baseline : Int) (count : Nat) (cusum : Nat) : Statement (.baselinePut tag zone baseline count cusum) := of_some rfl rfl id
theorem resultGet (tag : Byte) (zone : Nat) (selector : Nat) : Statement (.resultGet tag zone selector) := of_some rfl rfl id
theorem zoneStatus (tag : Byte) (zone : Nat) : Statement (.zoneStatus tag zone) := of_some rfl rfl id
theorem rollcall (tag : Byte) (first : Nat) (last : Nat) (mode : Nat) : Statement (.rollcall tag first last mode) := of_some rfl rfl id
theorem rollcallNext (tag : Byte) : Statement (.rollcallNext tag) := of_some rfl rfl id
theorem rollcallStop (tag : Byte) : Statement (.rollcallStop tag) := of_some rfl rfl id
theorem profile (tag : Byte) (zone : Nat) (descriptor : Nat) : Statement (.profile tag zone descriptor) := of_some rfl rfl id
theorem takeReading : Statement (.takeReading) := of_none rfl
theorem chainDecision : Statement (.chainDecision) := of_none rfl
theorem placement (zone : Nat) (descriptor : Nat) : Statement (.placement zone descriptor) := of_none rfl
theorem assessorTake : Statement (.assessorTake) := of_none rfl
theorem assessmentCompletion : Statement (.assessmentCompletion) := of_none rfl
theorem sync : Statement (.sync) := of_none rfl

end Sys2Proof.Laws.RowCarriesItsRequest
end

