-- ==== Sys2Proof/Laws/Placing.lean ====
section
/-! SUPPORT. Placing segments into a night (R61, R63, R78): what a list of segments adds to each slot, what the placements
of an opening add to it, and that they change nothing but the slot records. -/

namespace Sys2Proof.Machine

/-! ### Slots and positions -/

theorem mapSlots_getElem? (L : Nat) (f : Nat → Slot → Slot) (a k : Nat) (xs : List Slot) :
    (mapSlots L f a xs)[k]? = xs[k]?.map (f (a + k * L)) := by
  induction xs generalizing a k with
  | nil => simp [mapSlots]
  | cons x rest ih =>
    cases k with
    | zero => simp [mapSlots]
    | succ k => simp only [mapSlots, List.getElem?_cons_succ, ih]; rw [show a + L + k * L = a + (k + 1) * L by ring]

theorem positionFrom_getElem {qs : List Required} (h : (qs.map (·.meter)).Nodup) {k p : Nat} {q : Required} (hq : qs[p]? = some q) :
    positionFrom k q.meter qs = some (k + p, q.role) := by
  induction qs generalizing k p with
  | nil => simp at hq
  | cons x rest ih =>
    rw [List.map_cons, List.nodup_cons] at h
    cases p with
    | zero => simp only [List.getElem?_cons_zero, Option.some.injEq] at hq; subst hq; simp [positionFrom]
    | succ p =>
      rw [List.getElem?_cons_succ] at hq
      have hm : x.meter ≠ q.meter := fun e => h.1 (e ▸ List.mem_map.2 ⟨q, List.mem_of_getElem? hq, rfl⟩)
      simp only [positionFrom, if_neg hm]
      rw [ih h.2 hq, show k + 1 + p = k + (p + 1) by ring]

/-- A zone's boundary names each meter once (R11). -/
theorem boundary_nodup (s : State) (h : Table.wf (none : Option Meter) s.meters = true) (z : Nat) :
    ((s.boundary z).map (·.meter)).Nodup := by
  unfold State.boundary
  generalize s.meters = t at h
  induction t with
  | nil => simp
  | cons p rest ih =>
    simp only [Table.wf, Bool.and_eq_true, List.all_eq_true, decide_eq_true_eq] at h
    rw [List.filterMap_cons]
    split
    · exact ih h.2
    · rename_i q hq
      rw [List.map_cons, List.nodup_cons]
      refine ⟨fun hm => ?_, ih h.2⟩
      obtain ⟨y, hy, hye⟩ := List.mem_map.1 hm
      obtain ⟨w, hw, hwe⟩ := List.mem_filterMap.1 hy
      obtain ⟨_, _, rfl⟩ := Option.map_eq_some_iff.1 hq
      obtain ⟨_, _, rfl⟩ := Option.map_eq_some_iff.1 hwe
      exact absurd hye (Nat.ne_of_gt (h.1.1 w hw))

/-! ### A list of segments placed -/

/-- The good segments of a list that overlap [a, b). -/
def overlapping (a b : Nat) (gs : List Segment) : List Segment := gs.filter fun g => g.bad.isNone && g.overlaps a b

theorem modify_same (l : List Nat) (i : Nat) : l.modify i (fun x => x) = l := List.modify_id i l

theorem Slot.place_inflow (L : Nat) (g : Segment) (pos : Nat) (role : Role) (a : Nat) (x : Slot) :
    (Slot.place L g pos role a x).inflow =
      x.inflow + if g.overlaps a (a + L) ∧ role = .inflow then g.volumeIn a (a + L) else 0 := by
  unfold Slot.place Slot.addVolume
  cases role <;> by_cases h : g.overlaps a (a + L) <;> simp [h]

theorem Slot.place_outflow (L : Nat) (g : Segment) (pos : Nat) (role : Role) (a : Nat) (x : Slot) :
    (Slot.place L g pos role a x).outflow =
      x.outflow + if g.overlaps a (a + L) ∧ role = .outflow then g.volumeIn a (a + L) else 0 := by
  unfold Slot.place Slot.addVolume
  cases role <;> by_cases h : g.overlaps a (a + L) <;> simp [h]

theorem Slot.place_covered (L : Nat) (g : Segment) (pos : Nat) (role : Role) (a : Nat) (x : Slot) :
    (Slot.place L g pos role a x).covered =
      x.covered.modify pos (· + if g.overlaps a (a + L) then g.coverageIn a (a + L) else 0) := by
  unfold Slot.place Slot.addVolume
  cases role <;> by_cases h : g.overlaps a (a + L) <;> simp [h, modify_same]

theorem place_frame (L meter : Nat) (g : Segment) (n : Night) : { n.place L meter g with slots := n.slots } = n := by
  unfold Night.place
  split <;> rfl

theorem place_required (L meter : Nat) (g : Segment) (n : Night) : (n.place L meter g).required = n.required := by
  unfold Night.place
  split <;> rfl

theorem place_start (L meter : Nat) (g : Segment) (n : Night) : (n.place L meter g).start = n.start := by
  unfold Night.place
  split <;> rfl

theorem placeAll_frame (L meter : Nat) (gs : List Segment) (n : Night) : { n.placeAll L meter gs with slots := n.slots } = n := by
  unfold Night.placeAll
  induction gs generalizing n with
  | nil => rfl
  | cons g rest ih =>
    rw [List.foldl_cons]
    have h := congrArg (fun x : Night => { x with slots := n.slots }) (ih (n.place L meter g))
    exact h.trans (place_frame L meter g n)

theorem placeAll_required (L meter : Nat) (gs : List Segment) (n : Night) : (n.placeAll L meter gs).required = n.required := by
  have h := congrArg Night.required (placeAll_frame L meter gs n)
  exact h

theorem placeAll_start (L meter : Nat) (gs : List Segment) (n : Night) : (n.placeAll L meter gs).start = n.start := by
  have h := congrArg Night.start (placeAll_frame L meter gs n)
  exact h

/-- One slot after a list of segments was placed: the volumes at the meter's role, the coverages at its position (R61). -/
theorem placeAll_slot (L meter pos : Nat) (role : Role) (gs : List Segment) (n : Night) (k : Nat) (x : Slot)
    (hp : n.position meter = some (pos, role)) (hx : n.slots[k]? = some x) :
    let a := n.start + k * L
    ∃ y, (n.placeAll L meter gs).slots[k]? = some y ∧
      y.inflow = x.inflow + (if role = .inflow then ((overlapping a (a + L) gs).map fun g => g.volumeIn a (a + L)).sum else 0) ∧
      y.outflow = x.outflow + (if role = .outflow then ((overlapping a (a + L) gs).map fun g => g.volumeIn a (a + L)).sum else 0) ∧
      y.covered = x.covered.modify pos (· + ((overlapping a (a + L) gs).map fun g => g.coverageIn a (a + L)).sum) := by
  intro a
  unfold Night.placeAll
  induction gs generalizing n x with
  | nil => exact ⟨x, hx, by simp [overlapping], by simp [overlapping], by simp [overlapping, modify_same]⟩
  | cons g rest ih =>
    rw [List.foldl_cons]
    have hp1 : (n.place L meter g).position meter = some (pos, role) := by unfold Night.position; rw [place_required]; exact hp
    cases hb : g.bad with
    | some c =>
      have he : n.place L meter g = n := by unfold Night.place; rw [hb]
      rw [he]
      have ho : overlapping a (a + L) (g :: rest) = overlapping a (a + L) rest := by simp [overlapping, hb]
      rw [ho]
      exact ih n x hp hx
    | none =>
      have hs : (n.place L meter g).slots[k]? = some (Slot.place L g pos role a x) := by
        unfold Night.place
        rw [hb, hp]
        simp only [mapSlots_getElem?, hx, Option.map_some]
        rfl
      obtain ⟨y, hy, h1, h2, h3⟩ := ih (n.place L meter g) _ hp1 hs
      rw [place_start] at h1 h2 h3
      refine ⟨y, hy, ?_, ?_, ?_⟩
      · rw [h1, Slot.place_inflow]
        by_cases ho : g.overlaps a (a + L) <;> cases role <;> simp [overlapping, hb, ho, a]
        ring
      · rw [h2, Slot.place_outflow]
        by_cases ho : g.overlaps a (a + L) <;> cases role <;> simp [overlapping, hb, ho, a]
        ring
      · rw [h3, Slot.place_covered]
        by_cases ho : g.overlaps a (a + L)
        · have : overlapping a (a + L) (g :: rest) = g :: overlapping a (a + L) rest := by simp [overlapping, hb, ho]
          rw [if_pos ho, this, List.map_cons, List.sum_cons]
          apply List.ext_getElem?
          intro i
          simp only [List.getElem?_modify]
          cases x.covered[i]? with
          | none => simp
          | some c => by_cases hi : pos = i <;> simp [hi, a]; ring
        · have : overlapping a (a + L) (g :: rest) = overlapping a (a + L) rest := by simp [overlapping, hb, ho]
          rw [if_neg ho, this]
          apply List.ext_getElem?
          intro i
          simp only [List.getElem?_modify]
          cases x.covered[i]? with
          | none => simp
          | some c => by_cases hi : pos = i <;> simp [hi, a]

/-! ### The placements of an opening -/

/-- The good segments of a meter's chain that overlap [a, b) are those its opening placements put there. -/
theorem goodSegments_eq (s : State) (i : Nat) (m : Meter) (h : s.meter i = some m) (a b : Nat) :
    (s.goodSegments i).filter (fun g => g.overlaps a b) = overlapping a b (m.segmentsOf m.chain) := by
  unfold State.goodSegments overlapping
  rw [h]
  have hz : (m.chain.zip m.chain.tail).map (fun p => m.segment p.1 p.2) = m.segmentsOf m.chain := by
    generalize m.chain = c
    induction c with
    | nil => rfl
    | cons x rest ih =>
      cases rest with
      | nil => rfl
      | cons y l => simpa [Meter.segmentsOf] using ih
  simp only [hz, List.filter_filter]
  apply List.filter_congr
  intro g _
  cases g.bad <;> simp

/-- One meter's placements at an opening (R61). -/
def State.openOne (s : State) (n : Night) (q : Required) : Night :=
  match s.meter q.meter with
  | none => n
  | some m => n.placeAll s.slotSeconds q.meter (m.segmentsOf m.chain)

theorem openingPlacements_eq (s : State) (n : Night) : s.openingPlacements n = n.required.foldl s.openOne n := rfl

theorem openOne_frame (s : State) (n : Night) (q : Required) : { s.openOne n q with slots := n.slots } = n := by
  unfold State.openOne
  split
  · rfl
  · exact placeAll_frame _ _ _ _

theorem foldOpen_frame (s : State) (qs : List Required) (n : Night) : { qs.foldl s.openOne n with slots := n.slots } = n := by
  induction qs generalizing n with
  | nil => rfl
  | cons q rest ih =>
    rw [List.foldl_cons]
    have h := congrArg (fun x : Night => { x with slots := n.slots }) (ih (s.openOne n q))
    exact h.trans (openOne_frame s n q)

/-- One slot after one meter's placements at an opening. -/
theorem openOne_slot (s : State) (n : Night) (q : Required) (pos k : Nat) (x : Slot) (hp : n.position q.meter = some (pos, q.role))
    (hx : n.slots[k]? = some x) :
    let w := s.placed (n.start + k * s.slotSeconds) (n.start + k * s.slotSeconds + s.slotSeconds) q.meter
    ∃ y, (s.openOne n q).slots[k]? = some y ∧ y.inflow = x.inflow + (if q.role = .inflow then w.1 else 0) ∧
      y.outflow = x.outflow + (if q.role = .outflow then w.1 else 0) ∧ y.covered = x.covered.modify pos (· + w.2) := by
  unfold State.openOne
  cases hm : s.meter q.meter with
  | none => exact ⟨x, hx, by simp [State.placed, State.goodSegments, hm], by simp [State.placed, State.goodSegments, hm],
      by simp [State.placed, State.goodSegments, hm, modify_same]⟩
  | some m =>
    simp only [State.placed, goodSegments_eq s _ m hm]
    exact placeAll_slot _ _ _ _ _ _ _ _ hp hx

/-- One slot after the placements of some required meters at an opening: volumes by role, coverage by position (R61, R78). -/
theorem foldOpen_slot (s : State) (qs : List Required) (n : Night) (hn : (n.required.map (·.meter)).Nodup) (k a : Nat) (x : Slot)
    (ha : n.start + k * s.slotSeconds = a) (hq : ∀ q ∈ qs, q ∈ n.required) (hs : (qs.map (·.meter)).Nodup)
    (hx : n.slots[k]? = some x) :
    ∃ y : Slot, (qs.foldl s.openOne n).slots[k]? = some y ∧
      y.inflow = x.inflow + ((qs.filter fun q => q.role = .inflow).map fun q => (s.placed a (a + s.slotSeconds) q.meter).1).sum ∧
      y.outflow = x.outflow + ((qs.filter fun q => q.role = .outflow).map fun q => (s.placed a (a + s.slotSeconds) q.meter).1).sum ∧
      y.covered.length = x.covered.length ∧
      ∀ (p : Nat) (q : Required), n.required[p]? = some q →
        y.covered[p]? = x.covered[p]?.map (· + if q ∈ qs then (s.placed a (a + s.slotSeconds) q.meter).2 else 0) := by
  induction qs generalizing n x with
  | nil => exact ⟨x, hx, by simp, by simp, rfl, by simp⟩
  | cons q rest ih =>
    rw [List.foldl_cons]
    rw [List.map_cons, List.nodup_cons] at hs
    obtain ⟨pos, hpos, hpq⟩ := List.mem_iff_getElem.1 (hq q List.mem_cons_self)
    have hpq' : n.required[pos]? = some q := by rw [List.getElem?_eq_getElem hpos, hpq]
    have hp : n.position q.meter = some (pos, q.role) := by
      have := positionFrom_getElem hn (k := 0) hpq'
      simpa [Night.position] using this
    obtain ⟨y, hy, h1, h2, h3⟩ := openOne_slot s n q pos k x hp hx
    rw [ha] at h1 h2 h3
    have hr : (s.openOne n q).required = n.required := by
      have h := congrArg Night.required (openOne_frame s n q); exact h
    have hst : (s.openOne n q).start = n.start := by
      have h := congrArg Night.start (openOne_frame s n q); exact h
    obtain ⟨v, hv, g1, g2, g3, g4⟩ := ih (s.openOne n q) (by rw [hr]; exact hn) y (by rw [hst]; exact ha)
      (fun a ha => by rw [hr]; exact hq a (List.mem_cons_of_mem _ ha)) hs.2 hy
    refine ⟨v, hv, ?_, ?_, ?_, ?_⟩
    · rw [g1, h1]
      cases hrole : q.role <;> simp [hrole, add_assoc]
    · rw [g2, h2]
      cases hrole : q.role <;> simp [hrole, add_assoc]
    · rw [g3, h3, List.length_modify]
    · intro p r hpr
      rw [g4 p r (by rw [hr]; exact hpr), h3, List.getElem?_modify]
      by_cases hrq : r = q
      · subst hrq
        have hnot : r ∉ rest := fun hm => hs.1 (List.mem_map.2 ⟨r, hm, rfl⟩)
        have hpp : pos = p := by
          have hlt : p < n.required.length := (List.getElem?_eq_some_iff.1 hpr).1
          have e1 : (n.required.map (·.meter))[pos]'(by simpa using hpos) = (n.required.map (·.meter))[p]'(by simpa using hlt) := by
            simp only [List.getElem_map, hpq, (List.getElem?_eq_some_iff.1 hpr).2]
          exact (List.Nodup.getElem_inj_iff hn).1 e1
        subst hpp
        rw [if_neg hnot, if_pos List.mem_cons_self]
        cases x.covered[pos]? <;> simp
      · have hpp : pos ≠ p := fun e => hrq (by rw [e] at hpq'; rw [hpq'] at hpr; exact (Option.some.inj hpr).symm)
        have : (r ∈ q :: rest) ↔ r ∈ rest := by simp [hrq]
        simp only [this]
        cases x.covered[p]? <;> simp [hpp]

end Sys2Proof.Machine
end

