-- ==== Sys2Proof/Laws/Pool.lean ====
section
/-! SUPPORT. The slot pool (R74, R75): what a change of one zone's nights does to the slot records held, and how many a
night holds after an opening, a placement or a defect. -/

namespace Sys2Proof.Machine

/-- A figure of the zones, summed over the table. -/
def zoneSum (f : Zone → Nat) (t : List (Nat × Zone)) : Nat := (t.map fun p => f p.2).sum

theorem regularHeld_eq (s : State) : s.regularHeld = zoneSum (fun v => heldBy v.night0 + heldBy v.night1) s.zones := rfl

theorem surveyHeld_eq (s : State) : s.surveyHeld = zoneSum (fun v => heldBy v.night2) s.zones := rfl

/-- The figure of a zone number that is not listed is that of the initial zone. -/
theorem zoneSum_put (f : Zone → Nat) (hf : f Zone.initial = 0) (z : Nat) (v : Zone) (t : List (Nat × Zone))
    (h : Table.wf (some Zone.initial) t = true) :
    zoneSum f (Table.put z v t) + f ((Table.find z t).getD Zone.initial) = zoneSum f t + f v := by
  unfold zoneSum
  induction t with
  | nil => simp [Table.put, Table.find, hf]
  | cons p rest ih =>
    obtain ⟨i, w⟩ := p
    simp only [Table.wf, Bool.and_eq_true, List.all_eq_true, decide_eq_true_eq] at h
    simp only [Table.put, Table.find]
    split
    · simp only [List.map_cons, List.sum_cons, Option.getD_some]
      omega
    · split
      · rename_i hne hlt
        rw [find_none_of_lt z rest fun q hq => hlt.trans (h.1.1 q hq)]
        simp only [List.map_cons, List.sum_cons, Option.getD_none, hf]
        omega
      · simp only [List.map_cons, List.sum_cons]
        have := ih h.2
        omega

theorem zoneSum_del (f : Zone → Nat) (hf : f Zone.initial = 0) (z : Nat) (t : List (Nat × Zone))
    (h : Table.wf (some Zone.initial) t = true) :
    zoneSum f (Table.del z t) + f ((Table.find z t).getD Zone.initial) = zoneSum f t := by
  unfold zoneSum
  induction t with
  | nil => simp [Table.del, Table.find, hf]
  | cons p rest ih =>
    obtain ⟨i, w⟩ := p
    simp only [Table.wf, Bool.and_eq_true, List.all_eq_true, decide_eq_true_eq] at h
    have hd : Table.del z ((i, w) :: rest) = if i = z then Table.del z rest else (i, w) :: Table.del z rest := by
      unfold Table.del
      by_cases hi : i = z <;> simp [hi]
    rw [hd]
    simp only [Table.find]
    split
    · rename_i hi
      have hn : Table.find z rest = none := find_none_of_lt z rest fun q hq => hi ▸ h.1.1 q hq
      have := ih h.2
      rw [hn, Option.getD_none, hf] at this
      simp only [List.map_cons, List.sum_cons, Option.getD_some]
      omega
    · simp only [List.map_cons, List.sum_cons]
      have := ih h.2
      omega

/-- A zone's record replaced: the figure changes by what that zone's changes. -/
theorem zoneSum_setZone (f : Zone → Nat) (hf : f Zone.initial = 0) (s : State) (z : Nat) (v : Zone)
    (h : Table.wf (some Zone.initial) s.zones = true) :
    zoneSum f (s.setZone z v).zones + f (s.zone z) = zoneSum f s.zones + f v := by
  unfold State.setZone State.zone
  simp only
  split
  · rename_i hv
    rw [zoneSum_del f hf z s.zones h, hv, hf, Nat.add_zero]
  · exact zoneSum_put f hf z v s.zones h

theorem regularHeld_setZone (s : State) (z : Nat) (v : Zone) (h : Table.wf (some Zone.initial) s.zones = true) :
    (s.setZone z v).regularHeld + (heldBy (s.zone z).night0 + heldBy (s.zone z).night1) =
      s.regularHeld + (heldBy v.night0 + heldBy v.night1) :=
  zoneSum_setZone (fun v => heldBy v.night0 + heldBy v.night1) rfl s z v h

theorem surveyHeld_setZone (s : State) (z : Nat) (v : Zone) (h : Table.wf (some Zone.initial) s.zones = true) :
    (s.setZone z v).surveyHeld + heldBy (s.zone z).night2 = s.surveyHeld + heldBy v.night2 :=
  zoneSum_setZone (fun v => heldBy v.night2) rfl s z v h

/-- A night's record replaced: a regular descriptor changes what regular nights hold, the survey's what surveys hold. -/
theorem held_setNight (s : State) (r : NightRef) (n : Option Night) (hd : r.desc < 3)
    (h : Table.wf (some Zone.initial) s.zones = true) :
    (s.setNight r n).regularHeld + (if r.desc < 2 then heldBy (s.night r) else 0) =
        s.regularHeld + (if r.desc < 2 then heldBy n else 0) ∧
      (s.setNight r n).surveyHeld + (if r.desc = 2 then heldBy (s.night r) else 0) =
        s.surveyHeld + (if r.desc = 2 then heldBy n else 0) := by
  obtain ⟨z, d⟩ := r
  have h1 := regularHeld_setZone s z ((s.zone z).setNight d n) h
  have h2 := surveyHeld_setZone s z ((s.zone z).setNight d n) h
  match d, hd with
  | 0, _ => simp only [Zone.setNight] at h1 h2; exact ⟨by simpa [State.setNight, State.night, Zone.night, Zone.setNight] using (by omega),
      by simpa [State.setNight, Zone.setNight] using h2⟩
  | 1, _ => simp only [Zone.setNight] at h1 h2; exact ⟨by simpa [State.setNight, State.night, Zone.night, Zone.setNight] using (by omega),
      by simpa [State.setNight, Zone.setNight] using h2⟩
  | 2, _ => simp only [Zone.setNight] at h1 h2; exact ⟨by simpa [State.setNight, Zone.setNight] using h1,
      by simpa [State.setNight, State.night, Zone.night, Zone.setNight] using h2⟩

/-! ### What a night holds -/

theorem mapSlots_length (L : Nat) (f : Nat → Slot → Slot) (a : Nat) (xs : List Slot) : (mapSlots L f a xs).length = xs.length := by
  induction xs generalizing a with
  | nil => rfl
  | cons x rest ih => simp only [mapSlots, List.length_cons, ih]

theorem place_length (L meter : Nat) (g : Segment) (n : Night) : (n.place L meter g).slots.length = n.slots.length := by
  unfold Night.place
  split
  · exact mapSlots_length _ _ _ _
  · rfl

theorem withdraw_length (L meter : Nat) (g : Segment) (n : Night) : (n.withdraw L meter g).slots.length = n.slots.length := by
  unfold Night.withdraw
  split
  · exact mapSlots_length _ _ _ _
  · rfl

theorem placeAll_length (L meter : Nat) (gs : List Segment) (n : Night) : (n.placeAll L meter gs).slots.length = n.slots.length := by
  unfold Night.placeAll
  induction gs generalizing n with
  | nil => rfl
  | cons g rest ih => rw [List.foldl_cons, ih, place_length]

theorem receive_length (d : Quality) (n : Night) : (n.receive d).slots.length = n.slots.length := by
  unfold Night.receive
  split <;> rfl

theorem openingPlacements_length (s : State) (n : Night) : (s.openingPlacements n).slots.length = n.slots.length := by
  unfold State.openingPlacements
  generalize n.required = qs
  induction qs generalizing n with
  | nil => rfl
  | cons q rest ih =>
    rw [List.foldl_cons, ih]
    split
    · rfl
    · exact placeAll_length _ _ _ _

/-- A night opened holds one slot record for each of its slots (R75, R78). -/
theorem openedNight_length (s : State) (z : Nat) (n : Night) : (s.openedNight z n).slots.length = n.slotCount := by
  unfold State.openedNight State.settleCheck
  simp only
  split
  · rw [openingPlacements_length, List.length_replicate]
  · split
    · rw [receive_length, openingPlacements_length, List.length_replicate]
    · rw [openingPlacements_length, List.length_replicate]

end Sys2Proof.Machine
end

