-- ==== Sys2Proof/Tests/Slice0.lean ====
section
/-! SUPPORT. Tests: the checks of WellFormed, figures the spec writes out, one step of the part on small states, and
for every statement with hypotheses a state and operands that meet them (`witness_…`). -/

namespace Sys2Proof.Tests

-- One theorem at a time: elaborated side by side, the kernel's evaluations take more threads than the check's memory
-- limit has stacks for.
set_option Elab.async false

open Sys2Proof.Machine

/-! ### Well-formedness -/

def meterSpec : MeterSpec :=
  { tag := 10, kind := 0, upstream := 0, downstream := 1, modulus := 0, scale := 0, maxRate := 3600000, maxGap := none, channel := none }

def testsSpec : Tests := { learn := 7, weight := 3, burst := 2000, persist := 2, slack := 200, limit := 5000, settleLength := 1440 }

theorem test_wf_pulse_channel : (Instr.pulseFallingEdge 8).wellFormed = false ∧ (Instr.pulseRisingEdge 8 1).wellFormed = false ∧
    (Instr.pulseFallingEdge 7).wellFormed = true := by decide +kernel
theorem test_wf_frame_too_long : (Instr.frame 1 1 (List.replicate 251 0) 0).wellFormed = false ∧
    (Instr.tooLong 250).wellFormed = false ∧ (Instr.tooLong 251).wellFormed = true := by decide +kernel
theorem test_wf_received : (Instr.timeout (List.replicate 257 0)).wellFormed = false ∧
    (Instr.timeout (List.replicate 256 0)).wellFormed = true ∧ (Instr.charError (List.replicate 257 0) []).wellFormed = false ∧
    (Instr.charError (List.replicate 256 0) []).wellFormed = true := by decide +kernel
theorem test_wf_unknown_kind : (Instr.unknownKind 0x21 0).wellFormed = false ∧ (Instr.unknownKind 0x22 0).wellFormed = true := by decide +kernel
theorem test_wf_placement : (Instr.placement 0 0).wellFormed = false ∧ (Instr.placement 257 0).wellFormed = false ∧
    (Instr.placement 1 3).wellFormed = false ∧ (Instr.placement 256 2).wellFormed = true := by decide +kernel
theorem test_wf_two_byte_zone : (Instr.zoneDefine 0 65536).wellFormed = false ∧ (Instr.zoneStart 0 65536).wellFormed = false ∧
    (Instr.zoneStop 0 65536).wellFormed = false ∧ (Instr.zoneUndefine 0 65536).wellFormed = false ∧
    (Instr.surveyCancel 0 65536).wellFormed = false ∧ (Instr.rebaseline 0 65536).wellFormed = false ∧
    (Instr.baselineGet 0 65536).wellFormed = false ∧ (Instr.zoneStatus 0 65536).wellFormed = false ∧
    (Instr.dismiss 0 65536 false).wellFormed = false ∧ (Instr.confirm 0 65536 false).wellFormed = false ∧
    (Instr.repaired 0 65536 false).wellFormed = false ∧ (Instr.zoneDefine 0 65535).wellFormed = true := by decide +kernel
theorem test_wf_system_set :
    (Instr.systemSet 0 { slotLength := some 256, reserve := none, noticeMode := none, interval := none }).wellFormed = false := by decide +kernel
theorem test_wf_ack : (Instr.ack 0 65536 0).wellFormed = false ∧ (Instr.ack 0 0 256).wellFormed = false := by decide +kernel
theorem test_wf_clock_set : (Instr.clockSet 0 (some 4294967296) none).wellFormed = false ∧
    (Instr.clockSet 0 none (some 256)).wellFormed = false := by decide +kernel
theorem test_wf_survey : (Instr.surveyArm 0 1 { start := 4294967296, slots := 2, runLength := 1 }).wellFormed = false ∧
    (Instr.surveyArmReplace 0 1 { start := 0, slots := 256, runLength := 1 }).wellFormed = false := by decide +kernel
theorem test_wf_window :
    (Instr.zoneSetWindow 0 1 { start := 65536, slots := 2, runLength := none, delay := none }).wellFormed = false := by decide +kernel
theorem test_wf_allowance :
    (Instr.zoneSetAllowance 0 1 0 0 [{ tag := 4294967296, allowance := 1, weekdays := none, validUntil := none }]).wellFormed = false ∧
      (Instr.zoneSetAllowance 0 1 0 0
        (List.replicate 23 { tag := 0, allowance := 1, weekdays := none, validUntil := none })).wellFormed = false := by decide +kernel
theorem test_wf_tests : (Instr.zoneSetTests 0 1 { testsSpec with learn := 256 }).wellFormed = false := by decide +kernel
theorem test_wf_disturb : (Instr.disturb 0 1 4294967296 0).wellFormed = false := by decide +kernel
theorem test_wf_meter_define : (Instr.meterDefine 0 { meterSpec with maxRate := 4294967296 }).wellFormed = false ∧
    (Instr.meterDefine 0 meterSpec).wellFormed = true := by decide +kernel
theorem test_wf_meter_tag : (Instr.meterRetire 0 4294967296).wellFormed = false ∧ (Instr.meterCut 0 4294967296 0).wellFormed = false ∧
    (Instr.meterStatus 0 4294967296).wellFormed = false ∧ (Instr.meterExceptionsTag 0 4294967296).wellFormed = false ∧
    (Instr.meterExceptionsSweep 0 65536).wellFormed = false := by decide +kernel
theorem test_wf_readings : (Instr.readings 0 0 [{ tag := 0, offset := 8388608, forward := 0, reverse := none }]).wellFormed = false ∧
    (Instr.readings 0 0 (List.replicate 17 { tag := 0, offset := 0, forward := 0, reverse := none })).wellFormed = false := by decide +kernel
theorem test_wf_channel_set : (Instr.channelSet 0 0 { enable := none, width := none, noise := none }).wellFormed = false ∧
    (Instr.channelSet 0 256 { enable := some 1, width := some 1, noise := some 1 }).wellFormed = false ∧
    (Instr.channelSetRead 0 256).wellFormed = false := by decide +kernel
theorem test_wf_baseline_put : (Instr.baselinePut 0 1 2147483648 0 0).wellFormed = false ∧
    (Instr.baselinePut 0 1 0 256 0).wellFormed = false := by decide +kernel
theorem test_wf_selectors : (Instr.resultGet 0 1 256).wellFormed = false ∧ (Instr.profile 0 1 256).wellFormed = false ∧
    (Instr.rollcall 0 1 1 256).wellFormed = false := by decide +kernel

/-! ### Figures of the spec -/

/-- R149: the check string. -/
theorem test_crc_check_string : crc16 [0x31, 0x32, 0x33, 0x34, 0x35, 0x36, 0x37, 0x38, 0x39] = 0x29B1 := by decide +kernel

/-- The body of a request as R159 to R162 lay it out, read back. -/
theorem test_parse_clock_set :
    parseRequest 0x06 [1, 0x10, 0x27, 0, 0, 1, 2] = .clockSet (some 10000) (some 2) := by decide +kernel
theorem test_parse_length : parseRequest 0x06 [1] = .badLength ∧ parseRequest 0x06 [2, 0, 0, 0, 0, 0, 0] = .badValue := by decide +kernel
theorem test_parse_unknown : parseRequest 0x22 [] = .unknown ∧ parseRequest 0 [] = .unknown := by decide +kernel

/-- No row of the table gives bits. -/
theorem test_no_table_word : decodeTableWord 16 0x1234 = none := rfl

/-- 04, the worked segment: 2830 dL over four slots. -/
theorem test_shares :
    let g : Segment := { t1 := 420, t2 := 3150, volume := 2830, bad := none }
    (List.range 4).map (fun k => g.volumeIn (900 * k) (900 * (k + 1))) = [497, 933, 933, 467] ∧
      (List.range 4).map (fun k => g.coverageIn (900 * k) (900 * (k + 1))) = [480, 900, 900, 450] := by decide +kernel

/-- R145, R146: parity. -/
theorem test_parity : Parity.even.accepts { data := 0x03, parityBit := false, stopBit := true } = true ∧
    Parity.even.accepts { data := 0x03, parityBit := true, stopBit := true } = false ∧
    Parity.odd.accepts { data := 0x03, parityBit := true, stopBit := true } = true ∧
    Parity.none.accepts { data := 0x03, parityBit := true, stopBit := false } = false := by decide +kernel

/-! ### Small states -/

/-- A zone entry with a window of two slots from 01:00, a run length of 1, no close delay. -/
def entry (active : Bool) : ZoneEntry :=
  { ZoneEntry.fresh with active := active, window := some { start := 60, slots := 2 }, runLength := 1, delay := 0 }

/-- A BULK meter into zone 1 with a chain of two readings. -/
def meter : Meter :=
  { tag := 10, kind := .bulk, upstream := 0, downstream := 1, modulus := 10000, scale := 1, maxRate := 3600000, maxGap := 3600,
    channel := none, cut := none,
    chain := [{ time := 89000, forward := 5, reverse := none, noisy := none }, { time := 89900, forward := 9, reverse := none, noisy := none }],
    exceptions := none }

/-- A PULSE meter into zone 2 on channel 7. -/
def pulseMeter : Meter :=
  { meter with tag := 11, kind := .pulse, downstream := 2, modulus := 4294967296, channel := some 7, chain := [] }

/-- The part in RUN at 01:00 of day 1: zone 1 ACTIVE, zone 256 IDLE, meters 0 and 1. -/
def site : State :=
  (((({ State.reset with clock := { time := 90000, running := true, epoch := 2 } }.setEntry 1 (some (entry true))).setEntry 2
    (some { entry false with active := true })).setEntry 256 (some (entry false))).putMeter 0 meter).putMeter 1 pulseMeter

/-- A night of zone 1 in a state. -/
def night (st : NightState) : Night :=
  { start := 90000, slotCount := 2, runLength := 1, deadline := 91800, state := st, required := [{ meter := 0, role := .inflow }],
    mark := none, quality := .clean, lateCount := 0,
    slots := [{ inflow := 30, outflow := 0, covered := [900] }, { inflow := 7, outflow := 0, covered := [0] }] }

def siteNight (d : Nat) (st : NightState) : State := site.setNight { zone := 1, desc := d } (some (night st))

def reading (time forward : Nat) : Reading := { time := time, forward := forward, reverse := none, noisy := none }

def waiting : Waiting := { issue := 1, meter := 0, reading := reading 90800 20, origin := .host }

/-- A segment of meter 0 over the first 300 seconds of the night. -/
def segment : Segment := { t1 := 90000, t2 := 90300, volume := 12, bad := none }

def application (c : ChainChange) : Application := { waiting := waiting, change := c, reached := [], late := false }

def applying (d : Nat) (st : NightState) (c : ChainChange) : State := { siteNight d st with chain := .applying (application c) }

/-- A request held in the head place, with its reply or without. -/
def head (r : Request) (reply : Option Reply) (s : State) : State :=
  { s with link := { s.link with head := some { held := { kind := r.kind, tag := 5, request := r }, reply := reply } } }

def reply (ahead : Nat) : Reply := { kind := 0x81, body := [0], startsStream := false, ahead := ahead }

def reject : Reject := { cause := .check, tag := 3 }

def rejects (n : Nat) (s : State) : State := { s with link := { s.link with rejects := List.replicate n reject } }

def sending (source : Source) (s : State) : State :=
  { s with link := { s.link with sending := some { frame := { kind := 0x81, tag := 1, body := [0] }, source := source } } }

def held (hold : Bool) (s : State) : State := { s with link := { s.link with hold := hold } }

def noticed (s : State) : State := { s with notices := { s.notices with queue := [1] } }

def streaming (b : StreamBody) (p : StreamPhase) (s : State) : State :=
  { s with stream := some { body := b, phase := p, seq := 1, sent := 0 } }

def receiving (got : List Byte) (s : State) : State := { s with link := { s.link with rx := .inFrame got } }

/-- A result of zone 1. -/
def result (survey : Bool) (q : Quality) (nnf : Int) : ResultRecord :=
  { zone := 1, survey := survey, day := 1, slotCount := 2, completeCount := 2, quality := q, mnf := nnf, runStart := 0, lnu := 0, nnf := nnf,
    baseline := 0, excess := nnf, cusum := 0, persistence := 0, outcome := .notTested, verdict := .learning, lateCount := 0 }

def verdict (st : VerdictState) : Verdict :=
  { Verdict.initial with
    state := st, count := 6
    alarm := if st = .alarm then some { cause := .burst, day := 1, nnf := 4000, excess := 4000, baseline := 0, cusum := 0, persistence := 2 } else none }

def judging (v : Verdict) : State := site.setVerdict 1 v

/-- The outcome as a state. -/
def after (c : Instr) (s : State) : State :=
  match exec c s with
  | .next t => t
  | _ => s

/-! ### One step each -/

/-- An IDENTIFY frame received: the reply 0x81 is in transmission, status OK. -/
theorem test_identify_frame :
    (after (.frame 0x01 7 [] (frameCrc 0x01 7 [])) State.reset).link.sending.map (fun x => (x.frame.kind, x.frame.tag, x.frame.body.head?)) =
      some (0x81, 7, some 0) := by decide +kernel
/-- A damaged frame is answered with a REJECT. -/
theorem test_check_reject :
    (after (.frame 0x01 7 [] (frameCrc 0x01 7 [] ^^^ 1)) State.reset).link.sending.map (fun x => (x.frame.kind, x.frame.tag, x.frame.body)) =
      some (0xC0, 7, [2]) := by decide +kernel
/-- A break in a frame: one REJECT of cause CHAR_ERROR, however long the line stays low; then the line returns high. -/
theorem test_break_gives_one_error :
    let s := after (.charError [] (List.replicate 50 false)) (receiving [3, 1, 9] State.reset)
    s.link.sending.map (fun x => (x.frame.kind, x.frame.tag, x.frame.body)) = some (0xC0, 9, [1]) ∧ s.link.rejects = [] ∧
      s.link.line = .awaitHigh ∧ (after (.charError [] [false, true]) s).link.line = .idle ∧ (after (.charError [] [false, true]) s).link.rejects = [] := by
  decide +kernel
/-- A character taken from the levels of RXD: SYNC with a right stop bit puts the receiver into a frame. -/
theorem test_character_from_levels :
    (after (.charError [] [true, true, false, true, false, true, false, false, true, false, true, true]) State.reset).link.rx = .inFrame [] := by
  decide +kernel
/-- Three good IDENTIFY frames before a silence: the first reply is in transmission when the second frame comes, so each finds a place. -/
theorem test_frames_between_events :
    let f := (Frame.bytes { kind := 0x01, tag := 7, body := [] })
    let s := after (.timeout (f ++ f ++ f)) State.reset
    s.link.rejects = [] ∧ s.link.sending.isSome = true ∧ s.link.head.isSome = true ∧ s.link.second.isSome = true := by decide +kernel
/-- The tag map stands in order of tag, whatever the order of the indexes. -/
theorem test_tag_map_order :
    (site.putMeter 2 { meter with tag := 5 }).tagMap = [(5, 2), (10, 0), (11, 1)] ∧ (site.putMeter 2 { meter with tag := 5 }).meterByTag 5 = some 2 := by
  decide +kernel
/-- A boundary crossed by a tick: channel 7 is read, superseding the reading that waits and carrying its NOISY mark. -/
theorem test_boundary_reading :
    let old : Waiting := { issue := 1, meter := 1, reading := { reading 89000 3 with noisy := some true }, origin := .channel 7 }
    let s : State := { site.setChannel 7 { Channel.initial with enable := true, count := 12, rejected := 4 } with
      clock := { site.clock with time := 89999 }, intake := { queue := [old], next := 2 }, world := [0, 0, 0, 0] }
    (after .tick s).intake =
        { queue := [{ issue := 2, meter := 1, reading := { reading 90000 12 with noisy := some true }, origin := .channel 7 }], next := 3 } ∧
      ((after .tick s).channel 7).rejected = 0 := by decide +kernel
theorem test_zone_define : ((after (.zoneDefine 1 256) State.reset).entry 256).isSome = true := by decide +kernel
theorem test_tick_opens_night :
    let s := after .tick { site with clock := { site.clock with time := 89999 }, world := [0, 0, 0] }
    s.clock.time = 90000 ∧ (s.night { zone := 1, desc := 0 }).map (fun n => (n.state, n.start, n.deadline, n.required.length)) =
      some (.opened, 90000, 91800, 1) := by decide +kernel
theorem test_reading_accepted :
    ((after (.readings 1 90100 [{ tag := 10, offset := 0, forward := 20, reverse := none }]) site).intake) =
      { queue := [{ issue := 1, meter := 0, reading := reading 90100 20, origin := .host }], next := 2 } := by decide +kernel
theorem test_take_and_decide :
    let s := after .takeReading { site with intake := { queue := [waiting], next := 2 } }
    s.chain = .inHand waiting ∧ ((after .chainDecision s).meter 0).map (fun m => m.chain.length) = some 3 := by decide +kernel
theorem test_assessor_take :
    (after .assessorTake { siteNight 0 .queued with assess := { queue := [{ zone := 1, desc := 0 }], flight := none } }).assess.flight.map
      (fun f => (f.completeCount, f.mnf, f.runStart)) = some (1, 120, 0) := by decide +kernel
theorem test_burst_alarm :
    ((verdict .normal).handle testsSpec (result false .clean 2000)).state = .suspect ∧
      ({ verdict .normal with persistence := 1 }.handle testsSpec (result false .clean 2000)).state = .alarm := by decide +kernel

/-! ### Witnesses: states and operands that meet the hypotheses of a statement, clause by clause -/

theorem site_ready : site.ready := ⟨rfl, rfl, rfl⟩
theorem reset_ready : State.reset.ready := ⟨rfl, rfl, rfl⟩
theorem siteNight_ready (d : Nat) (st : NightState) : (siteNight d st).ready := ⟨rfl, rfl, rfl⟩
theorem judging_ready (v : Verdict) : (judging v).ready := ⟨rfl, rfl, rfl⟩
theorem site_canonical : site.canonical := by unfold State.canonical; decide +kernel
theorem reset_canonical : State.reset.canonical := ⟨rfl, rfl, rfl⟩

theorem witness_ResetLowStopsThePart : site.assertReset.link.resetLow = true ∧ Instr.tick.actsInReset = false := ⟨rfl, rfl⟩

theorem witness_ArbiterWaitsForAFreeLine :
    (sending .reject site).link.sending.isSome = true ∧ site.assertReset.link.resetLow = true ∧ site.offers = [] ∧
      (held true (noticed site)).link.sending = none ∧ (held true (noticed site)).link.resetLow = false ∧
      (held true (noticed site)).offers = [.notice] ∧ (held true site).link.free = false ∧ (noticed site).link.free = true ∧
      (noticed site).offers = [.notice] ∧ (rejects 1 (noticed site)).offers = [.answer, .notice] ∧ site.link.second = none := by
  decide +kernel

theorem witness_ArbiterPrecedence :
    (∀ src, (sending src site).link.resetLow = false ∧ (sending src site).link.sending.isSome = true ∧
      (sending src site).link.hold = false ∧ (held true (sending src site)).link.hold = true) ∧
    ((head .identify (some (reply 0)) (sending .notice site)).link.head.any (fun h => h.reply.any fun r => r.ahead = 0)) = true ∧
    ((head .identify (some (reply 1)) (sending .notice site)).link.rejects = []) ∧
    ((rejects 1 (sending .notice site)).link.rejects = [reject] ∧
      ∀ h r, (rejects 1 (sending .notice site)).link.head = some { held := h, reply := some r } → r.ahead ≠ 0) ∧
    ((head .identify (some (reply 1)) (rejects 1 (sending .notice site))).link.rejects = [reject] ∧
      ∀ h r, (head .identify (some (reply 1)) (rejects 1 (sending .notice site))).link.head = some { held := h, reply := some r } →
        r.ahead ≠ 0) ∧
    ((noticed (sending .reject site)).link.rejects = [] ∧ (noticed (sending .reject site)).link.replying = false ∧
      (noticed (sending .reject site)).notices.queue = [1]) ∧
    ((streaming (.once 1 256) .offered (sending .reject site)).notices.queue = [] ∧
      ((streaming (.once 1 256) .offered (sending .reject site)).afterFrame .reject).stream.any Stream.offers = true ∧
      ((sending .reject site).afterFrame .reject).stream.any Stream.offers = false) ∧
    (site.ready ∧ site.link.second = none ∧ (Instr.identify 1).requestOf = some (0x01, 1, .identify)) ∧
    ((streaming (.profile { zone := 1, desc := 0 } 2 true) .offered (siteNight 0 .opened)).night { zone := 1, desc := 0 } =
        some (night .opened) ∧ site.night { zone := 1, desc := 0 } = none ∧ (1 ≤ 256 ∧ 256 ≤ 256) ∧
      ((List.range 256).filter fun k => (site.entry ((256 + k - 1) % 256 + 1)).isSome) = [0, 1, 2] ∧
      ((List.range 1).filter fun k => (site.entry ((3 + k - 1) % 256 + 1)).isSome) = []) := by
  refine ⟨fun src => ⟨rfl, rfl, rfl, rfl⟩, by decide +kernel, rfl, ⟨rfl, fun h r hh => ?_⟩, ⟨rfl, fun h r hh => ?_⟩, by decide +kernel,
    by decide +kernel, ⟨site_ready, rfl, rfl⟩, by decide +kernel⟩
  · have h0 : (rejects 1 (sending .notice site)).link.head = none := rfl
    rw [h0] at hh
    cases hh
  · have h0 : (head .identify (some (reply 1)) (rejects 1 (sending .notice site))).link.head =
        some { held := { kind := 1, tag := 5, request := .identify }, reply := some (reply 1) } := rfl
    rw [h0] at hh
    cases hh
    decide

theorem witness_StreamStepsFollowTheirEvents :
    let s := streaming (.once 1 256) .awaitReply (held true (sending (.reply true) site))
    let t := streaming (.once 1 256) .sending (held true (sending .streamFrame site))
    (s.link.resetLow = false ∧ s.link.hold = true ∧ s.link.sending.isSome = true ∧ s.stream.any (fun st => st.phase = .awaitReply) = true) ∧
    (t.link.hold = true ∧ t.link.sending.any (fun x => x.source = .streamFrame) = true ∧ t.stream.any (fun st => st.phase = .sending) = true) ∧
    ((streaming (.once 1 1) (.interval 1) site).stream.any (fun st => st.phase = .interval 1) = true) ∧ site.stream = none ∧
    ((streaming (.once 1 1) .sending site).stream.any (fun st => st.phase = .sending) = true) := by decide +kernel

theorem witness_GoodFramesAreReceived :
    site.link.resetLow = false ∧ site.link.rx = .hunting ∧ (receiving [] site).link.rx = .inFrame [] ∧
      (([] ++ [0xA5] : List Byte).getD 0 0).toNat ≤ 250 ∧ 0 + 1 ≠ (([] ++ [0xA5] : List Byte).getD 0 0).toNat + 5 ∧
      (receiving [250, 1] site).link.rx = .inFrame [250, 1] ∧ (([250, 1] ++ [0xA5] : List Byte).getD 0 0).toNat ≤ 250 ∧
      2 + 1 ≠ (([250, 1] ++ [0xA5] : List Byte).getD 0 0).toNat + 5 ∧ (List.replicate 250 (0 : Byte)).length ≤ 250 := by decide +kernel

/-- The characters of a REJECT of cause CHECK and TAG 3 on TXD with even parity: 7 characters of 11 bits. -/
theorem test_reject_on_the_line :
    (reject.frame.bytes.take 5 = [0xA5, 1, 0xC0, 3, 2] ∧ (reject.frame.line .even).length = 77) ∧
      (reject.frame.line .even).take 11 = [false, true, false, true, false, false, true, false, true, false, true] := by decide +kernel
/-- The same on TXD of a part with these straps, bit time by bit time, and high again after the 77th. -/
theorem test_txd_of_the_frame_being_sent :
    let s := ({ site with link := { site.link with parity := .even, rate := .b115200 } } : State).send reject.frame .reject
    (List.range 11).map s.txd = [false, true, false, true, false, false, true, false, true, false, true] ∧ s.txd 76 = true ∧
      s.txd 77 = true ∧ s.txdAfter 8 = false ∧ s.txdAfter 9 = true ∧ site.txd 0 = true := by decide +kernel
/-- A frame in transmission and a character of it, for the view of TXD. -/
theorem witness_GoodFramesAreReceived_sending :
    let s := sending .reject site
    s.link.sending.isSome = true ∧ site.link.sending = none ∧
      (s.link.sending.bind fun x => x.frame.bytes[0]?) = some 0xA5 ∧ (Parity.none.charLine 0xA5)[9]? = some true := by decide +kernel

theorem witness_DamagedFramesBecomeRejects :
    let c : Character := { data := 0, parityBit := false, stopBit := false }
    site.link.resetLow = false ∧ site.link.rx = .hunting ∧ (0 : BitVec 16) ≠ frameCrc 1 0 [] ∧ 250 < (251 : Byte).toNat ∧
      (site.receiveLevels []).link.parity.accepts c = false ∧ (site.receiveLevels []).link.line = .idle ∧
      (site.receiveLevels []).link.parity.accepts { c with stopBit := true } = true ∧ (site.receiveLevels []).link.rx = .hunting ∧
      ((receiving [0, 1, 9] site).receiveLevels [true]).link.rx = .inFrame [0, 1, 9] ∧
      ((receiving [0, 1, 9] site).receiveLevels [true]).link.line = .idle ∧
      ((site.receiveWhole [0xA5, 0, 1, 9]).receiveLevels [true]).link.line = .idle ∧
      ((site.receiveWhole [0xA5, 0, 1, 9]).receiveLevels [true]).link.rx = .inFrame [0, 1, 9] ∧
      (site.receiveLevels (List.replicate 10 false)).link.line = .awaitHigh ∧ (site.receiveBytes [0x11]).link.rx = .hunting ∧
      (site.receiveBytes [0xA5]).link.rx = .inFrame [] ∧ (site.receiveBytes [0xA5, 0, 1, 9]).link.rx = .inFrame [0, 1, 9] ∧
      (rejects 3 site).link.rejects.length < 4 ∧ 4 ≤ (rejects 4 site).link.rejects.length := by decide +kernel

theorem witness_WrongRequestsAreAnswered :
    (site.ready ∧ site.link.rx = .hunting ∧ (0 : Byte).toNat = 0 ∧ 0x21 < (0x22 : Byte).toNat) ∧
      ((Instr.zoneDefine 1 0).requestOf = some (0x09, 1, .zoneDefine 0) ∧ (Request.zoneDefine 0).outOfRange ∧
        (Request.zoneDefine 257).outOfRange) ∧
      ((Instr.zoneStart 1 256).requestOf = some (0x0A, 1, .zoneStart 256) ∧ ¬ (Request.zoneStart 256).outOfRange ∧
        (Request.zoneStart 256).needsRun = true ∧ State.reset.ready ∧ State.reset.clock.running = false) ∧
      ((Request.zoneStart 3).zoneActedOn = some 3 ∧ site.entry 3 = none ∧ site.clock.running = true ∧ ¬ (Request.zoneStart 3).outOfRange) ∧
      ((Request.profile 3 2).zoneActedOn = some 3 ∧ (Request.profile 3 2).needsRun = false ∧ ¬ (Request.profile 3 2).outOfRange) := by
  refine ⟨⟨site_ready, rfl, rfl, by decide⟩, ⟨rfl, Or.inl (by decide), Or.inr (by decide)⟩, ⟨rfl, ?_, rfl, reset_ready, rfl⟩,
    ⟨rfl, by decide +kernel, rfl, ?_⟩, rfl, rfl, ?_⟩
  · simp [Request.outOfRange, Outside]
  · simp [Request.outOfRange, Outside]
  · simp [Request.outOfRange, Outside]

/-- Bodies that meet the clauses about a body: lengths and marks at their bounds, and counts at theirs. -/
theorem witness_WrongRequestsAreAnswered_bodies :
    (((0x06 : Byte).toNat, 7) ∈ bodyLengths ∧ ([0] : List Byte).length ≠ 7 ∧ ((0x06 : Byte).toNat, [0, 5]) ∈ markOffsets ∧
      ([0, 0, 0, 0, 0, 2, 0] : List Byte).length = 7 ∧ 1 < (([0, 0, 0, 0, 0, 2, 0] : List Byte).getD 5 0).toNat) ∧
    ((List.replicate 5 (0 : Byte)).length < 6 ∧ 8 < (([0, 0, 0, 0, 0, 9] : List Byte).getD 5 0).toNat ∧
      (([0, 0, 0, 0, 0, 8] : List Byte).getD 5 0).toNat ≤ 8 ∧ ([0, 0, 0, 0, 0, 8] : List Byte).length ≠ 6 + 11 * 8 ∧
      ([0, 0, 0, 0, 0, 1, 0, 0, 0, 0, 0, 0, 2, 0, 0, 0, 0] : List Byte).length = 6 + 11 * 1 ∧
      1 < (([0, 0, 0, 0, 0, 1, 0, 0, 0, 0, 0, 0, 2, 0, 0, 0, 0] : List Byte).getD (12 + 11 * 0) 0).toNat) ∧
    ((([0] : List Byte).getD 0 0).toNat = 0 ∧ 16 < (([17] : List Byte).getD 0 0).toNat ∧ (([16] : List Byte).getD 0 0).toNat ≤ 16 ∧
      ([16] : List Byte).length ≠ 5 + 15 * 16) := by decide +kernel

theorem witness_ReceiveBufferAndAnswers :
    let s := head .identify none site
    let t : State := { s with link := { s.link with second := some { kind := 1, tag := 6, request := .identify } } }
    (Instr.identify 1).requestOf = some (0x01, 1, .identify) ∧ s.link.resetLow = false ∧ s.link.head.isSome = true ∧ s.link.second = none ∧
      t.link.head.isSome = true ∧ t.link.second.isSome = true ∧ Status.noSuch ≠ .unknownKind ∧ Status.noSuch ≠ .ok := by decide +kernel

theorem witness_BodiesReadBack :
    let us : List User := List.replicate 8 { tag := 4294967295, allowance := 65535, weekdays := some 255, validUntil := none }
    let rs : List ReadingSpec := List.replicate 16 { tag := 1, offset := 8388607, forward := 4294967295, reverse := some 1 }
    ((Request.zoneSetAllowance 1 65535 255 us).wellFormed = true ∧ us.length ≤ 8) ∧
      ((Request.readings 4294967295 rs).wellFormed = true ∧ 1 ≤ rs.length) := by decide +kernel

theorem witness_FrameOfARequestIsItsRow :
    (Instr.identify 1).requestOf = some (0x01, 1, .identify) ∧ Request.identify.wellFormed = true ∧ site.link.rx = .hunting ∧
      (∀ z a b us, Request.identify = .zoneSetAllowance z a b us → us.length ≤ 8) ∧
      (∀ base rs, Request.identify = .readings base rs → 1 ≤ rs.length) :=
  ⟨rfl, rfl, rfl, fun _ _ _ _ h => (nomatch h), fun _ _ h => (nomatch h)⟩

theorem witness_IdentifyAndPoolStatusReport : site.ready ∧ site.poolBounded := ⟨site_ready, by unfold State.poolBounded; decide +kernel⟩

theorem witness_SystemSetSetsWhatItCarries :
    let all : SystemSpec := { slotLength := some 30, reserve := some 2048, noticeMode := some 1, interval := some 255 }
    let one : SystemSpec := { slotLength := none, reserve := none, noticeMode := none, interval := some 0 }
    (State.reset.ready ∧ State.reset.canonical ∧ systemInRange all = true ∧ State.reset.clock.running = false) ∧
      (site.ready ∧ site.canonical ∧ systemInRange one = true ∧ one.slotLength = none ∧ one.reserve = none ∧ one.noticeMode = none) ∧
      site.clock.running = true ∧ all.slotLength.isSome = true :=
  ⟨⟨reset_ready, reset_canonical, rfl, rfl⟩, ⟨site_ready, site_canonical, rfl, rfl, rfl, rfl⟩, rfl, rfl⟩

theorem witness_FlushEmptiesAndKeeps :
    (site.ready ∧ site.canonical ∧ site.stream = none) ∧
      ((streaming (.step 1 256) .awaitReply site).ready ∧ (streaming (.step 1 256) .awaitReply site).canonical) ∧
      (streaming (.once 1 256) .offered site).ready ∧ (streaming (.once 1 256) .offered site).canonical :=
  ⟨⟨site_ready, site_canonical, rfl⟩, ⟨⟨rfl, rfl, rfl⟩, site_canonical⟩, ⟨rfl, rfl, rfl⟩, site_canonical⟩

/-- Zone 1 with its four flags set, queued; the system entry with both of its flags. -/
def flagged : State :=
  let v := site.zone 1
  { site.setZone 1 { v with flags := { result := true, verdict := true, skip := true, survey := true },
                            skip := some { cause := .pool, day := 1, count := 255 } } with
    notices := { queue := [1, 0], meter := true, pool := true, blocked := false } }

theorem witness_AckClearsTheFlagsItNames :
    flagged.ready ∧ ackInRange 1 15 = true ∧ ackInRange 1 1 = true ∧ ackInRange 0 48 = true ∧ ackInRange 256 0 = true ∧
      (flagged.acknowledge 1 15).flagByte 1 = 0 ∧ (flagged.acknowledge 1 1).flagByte 1 ≠ 0 :=
  ⟨⟨rfl, rfl, rfl⟩, by decide +kernel⟩

theorem witness_RaisedFlagsQueueTheEntry :
    (1 ≠ 0 ∧ (flagged.zone 1).flags.get .result = true ∧ (site.zone 1).flags.get .result = false) ∧ flagged.notices.meter = true ∧
      flagged.notices.pool = true ∧ site.notices.meter = false ∧ site.notices.pool = false := by decide +kernel

theorem witness_SkipsAndExceptionsAreCounted :
    ((site.zone 1).flags.skip = false ∧ (flagged.zone 1).flags.skip = true ∧
      (flagged.zone 1).skip = some { cause := .pool, day := 1, count := 255 }) ∧
    site.meter 0 = some meter ∧ meter.exceptions = none ∧
    (site.putMeter 0 { meter with exceptions := some { code := .spike, time := 1, count := 255 } }).meter 0 =
      some { meter with exceptions := some { code := .spike, time := 1, count := 255 } } := by decide +kernel

theorem witness_ClockSetByItsForms :
    (State.reset.ready ∧ State.reset.clock.running = false ∧ requestInRange (.clockSet none none) = true ∧
      requestInRange (.clockSet (some 4294967295) (some 6)) = true ∧ requestInRange (.clockSet (some 0) none) = true) ∧
    (site.ready ∧ site.clock.running = true ∧ (6 : Nat) ≠ site.clock.epoch ∧ site.clock.epoch = 2 ∧ site.clock.time = 90000 ∧
      requestInRange (.clockSet (some 89999) (some 2)) = true ∧ requestInRange (.clockSet (some 90001) none) = true) :=
  ⟨⟨reset_ready, rfl, rfl, rfl, rfl⟩, site_ready, by decide +kernel⟩

theorem witness_TickAdvancesOneSecond :
    let last : State := { site with clock := { site.clock with time := 4294967295 } }
    site.link.resetLow = false ∧ site.clock.running = true ∧ site.clock.time < 4294967295 ∧ State.reset.clock.running = false ∧
      4294967295 ≤ last.clock.time ∧ (site.boundMeter 7).isSome = true ∧ 1439 < 1440 ∧
      Act.windowEnd { zone := 1, desc := 0 } ∈ (siteNight 0 .opened).nextActs 90000 180000 [(1, 90000)] [] ∧
      Act.announce 7 ∈ site.nextActs 90000 90900 [] [7] := by decide +kernel

theorem witness_TickAdvancesOneSecond_canonical : site.canonical ∧ site.clock.time < 90900 / (15 * 60) * (15 * 60) :=
  ⟨site_canonical, by decide +kernel⟩

theorem witness_NightsDrainAndFreeze :
    ((siteNight 0 .closing).night { zone := 1, desc := 0 } = some (night .closing) ∧ (siteNight 0 .closing).outstanding = []) ∧
      { siteNight 0 .closing with chain := .inHand waiting }.outstanding ≠ [] ∧ site.canonical ∧
      ({ ({ siteNight 0 .draining with chain := .inHand waiting }.setNight { zone := 1, desc := 0 }
        (some { night .draining with mark := some 1 })) with world := [0] }.quiesce.night { zone := 1, desc := 0 }) =
        some { night .draining with mark := some 1 } :=
  ⟨by decide +kernel, by decide +kernel, site_canonical, by decide +kernel⟩

/-- A night followed by a PROFILE, released while an application is in flight; and one that no stream follows. -/
theorem witness_NightsDrainAndFreeze_release :
    let r : NightRef := { zone := 1, desc := 0 }
    let s := streaming (.profile r 2 true) .offered (applying 0 .opened .conflict)
    s.stream = some { body := .profile r 2 true, phase := .offered, seq := 1, sent := 0 } ∧
      s.chain = .applying (application .conflict) ∧ (∀ cause, (StreamPhase.offered) ≠ .ending cause) ∧
      (streaming (.profile { r with desc := 1 } 2 true) .offered site).stream.isSome = true ∧ site.stream = none ∧ r.desc < 3 :=
  ⟨rfl, rfl, nofun, rfl, rfl, by decide⟩

theorem witness_NightsDrainAndFreeze_windows :
    ((night .opened).state = .opened ∧ (night .opened).deadline = 90000 + 2 * (15 * 60)) ∧
      ({ night .opened with deadline := 91801 }.deadline ≠ 90000 + 2 * (15 * 60) ∧
        ({ night .opened with deadline := 91801 }.slots.all fun x => x.covered.all fun c => c = 15 * 60) = false) ∧
      ((applying 0 .opened (.segments none [])).unreached (application (.segments none [])) ≠ [] ∧
        { site with chain := .applying (application (.segments none [])) }.unreached (application (.segments none [])) = []) ∧
      ((siteNight 0 .draining).night { zone := 1, desc := 0 } = some (night .draining) ∧ (night .draining).state = .draining ∧
        (night .draining).mark = none ∧ (siteNight 0 .draining).quiesce.assess.queue = [{ zone := 1, desc := 0 }]) := by decide +kernel

theorem witness_WindowStartOpensOrSkips :
    let s := site.setEntry 1 (some { entry true with delay := 2160 })
    let full : State := { site with settings := { site.settings with reserve := 8191 } }
    (site.entry 1 = some (entry true) ∧ (entry true).window = some { start := 60, slots := 2 }) ∧
      (s.entry 1).isSome = true ∧ 4294967295 < 4294900000 + 2 * (site.settings.slotLength * 60) + 60 * 2160 ∧
      90000 + 2 * (site.settings.slotLength * 60) + 60 * 0 ≤ 91800 ∧ ¬ 90000 + 2 * (site.settings.slotLength * 60) + 60 * 0 ≤ 91799 ∧
      (((siteNight 0 .opened).setNight { zone := 1, desc := 1 } (some (night .queued))).zone 1).night0.isSome = true ∧
      (((siteNight 0 .opened).setNight { zone := 1, desc := 1 } (some (night .queued))).zone 1).night1.isSome = true ∧
      (site.zone 1).night0 = none ∧ 8192 - full.settings.reserve < full.regularHeld + 2 ∧
      site.regularHeld + 2 ≤ 8192 - site.settings.reserve ∧ 2 ≤ site.freeSlots := by decide +kernel

/-- The site whose meter 0 has one good segment that reaches 300 seconds into the night of 01:00. -/
def metered : State := site.putMeter 0 { meter with chain := [reading 89900 9, reading 90300 21] }

/-- An opening places the chain of the required meter: 12 dL over 400 seconds, 9 dL in the 300 seconds of the first slot. -/
theorem test_opening_places_the_chain :
    ((metered.regularStart 1 90000 90000).night { zone := 1, desc := 0 }).map (fun n => (n.slots, n.quality)) =
      some ([{ inflow := 9, outflow := 0, covered := [300] }, { inflow := 0, outflow := 0, covered := [0] }], .clean) := by decide +kernel

/-- Both cases of an opening: with an application in flight and without, with a settle interval that the window overlaps and
without. -/
theorem witness_WindowStartOpensOrSkips_opening :
    let disturbed := site.setEntry 1 (some { entry true with settle := some { start := 80000, stop := 90001 } })
    site.canonical ∧ site.chain ≠ .applying (application .conflict) ∧
      (applying 2 .armed .conflict).chain = .applying (application .conflict) ∧
      (applying 2 .armed .conflict).night { zone := 1, desc := 2 } = some (night .armed) ∧ (night .armed).quality = .clean ∧
      2 ≤ (applying 2 .armed .conflict).freeSlots ∧
      ((disturbed.regularStart 1 90000 90000).night { zone := 1, desc := 0 }).map (·.quality) = some .disturbed ∧
      ((site.regularStart 1 90000 90000).night { zone := 1, desc := 0 }).map (·.quality) = some .clean :=
  ⟨site_canonical, by decide +kernel⟩

theorem witness_WindowStartOpensOrSkips_survey :
    (siteNight 2 .armed).night { zone := 1, desc := 2 } = some (night .armed) ∧ (night .opened).state ≠ .armed ∧
      (night .armed).deadline ≤ 91800 ∧ ¬ (night .armed).deadline ≤ 91799 ∧ (night .armed).slotCount ≤ (siteNight 2 .armed).freeSlots ∧
      (siteNight 2 .armed).freeSlots < { night .armed with slotCount := 8193 }.slotCount := by decide +kernel

theorem witness_ZonesAreDefinedAndUndefined :
    (site.ready ∧ site.entry 3 = none ∧ (site.entry 256).isSome = true) ∧
      (site.entry 256 = some (entry false) ∧ (entry false).active = false ∧ (site.zone 256).verdict.state = .learning ∧
        (site.meters.any fun p => p.2.upstream = 256 || p.2.downstream = 256) = false ∧ (site.zone 256).night0 = none) ∧
      (site.entry 1 = some (entry true) ∧ (entry true).active = true) ∧
      ((site.setVerdict 256 (verdict .alarm)).zone 256).verdict.state = .alarm ∧
      ((site.setEntry 1 (some (entry false))).meters.any fun p => p.2.upstream = 1 || p.2.downstream = 1) = true :=
  ⟨⟨site_ready, by decide +kernel⟩, by decide +kernel⟩

theorem witness_ZonesStartAndStop :
    (State.reset.ready ∧ State.reset.clock.running = false) ∧ (site.ready ∧ site.clock.running = true ∧ site.entry 3 = none) ∧
      (site.entry 1 = some (entry true) ∧ site.hasInflow 256 = false ∧
        ((siteNight 0 .opened).night { zone := 1, desc := 0 }).any (fun n => !n.frozen) = true ∧
        ((siteNight 0 .queued).night { zone := 1, desc := 0 }).any Night.frozen = true) ∧
      ((site.setEntry 1 (some (entry false))).entry 1 = some (entry false) ∧ (entry false).active = false ∧
        (entry false).window.isSome = true ∧ (site.setEntry 1 (some (entry false))).hasInflow 1 = true) :=
  ⟨⟨reset_ready, rfl⟩, ⟨site_ready, by decide +kernel⟩, by decide +kernel⟩

theorem witness_ZoneSettingsReplaceWhatTheyCarry :
    (site.ready ∧ site.entry 1 = some (entry true) ∧ site.entry 256 = some (entry false)) ∧
      windowInRange { start := 1425, slots := 48, runLength := some 8, delay := some 2160 } = true ∧ 1425 % site.settings.slotLength = 0 ∧
      windowInRange { start := 1439, slots := 2, runLength := some 8, delay := none } = true ∧ 1439 % site.settings.slotLength ≠ 0 ∧
      requestInRange (.zoneSetAllowance 1 65535 255 [{ tag := 1, allowance := 65535, weekdays := some 127, validUntil := some 49710 }]) = true ∧
      requestInRange (.zoneSetAllowance 1 0 0 [{ tag := 1, allowance := 1, weekdays := none, validUntil := none },
        { tag := 1, allowance := 2, weekdays := none, validUntil := none }]) = true ∧ testsInRange testsSpec = true :=
  ⟨⟨site_ready, by decide +kernel⟩, by decide +kernel⟩

theorem witness_DisturbWidensTheSettleInterval :
    (site.ready ∧ requestInRange (.disturb 1 90000 90001) = true ∧ requestInRange (.disturb 1 90001 90000) = true) ∧
      site.entry 1 = some (entry true) := ⟨⟨site_ready, rfl, rfl⟩, by decide +kernel⟩

theorem witness_SurveysAreArmedAndCancelled :
    let f : SurveySpec := { start := 91800, slots := 2, runLength := 2 }
    let r : NightRef := { zone := 1, desc := 2 }
    (site.ready ∧ requestInRange (.surveyArm 1 f false) = true ∧ site.clock.running = true ∧ site.entry 1 = some (entry true) ∧
      (entry true).active = true ∧ site.night r = none) ∧
    ((siteNight 2 .armed).ready ∧ (siteNight 2 .queued).ready) ∧
    (((siteNight 2 .armed).night r).isSome = true ∧ ((siteNight 2 .armed).night r).any Night.frozen = false ∧
      ((siteNight 2 .queued).night r).any Night.frozen = true) ∧
    (91800 % (site.settings.slotLength * 60) = 0 ∧ site.clock.time < 91800 ∧ 91800 + 2 * (site.settings.slotLength * 60) + 0 ≤ 4294967295) ∧
    91801 % (site.settings.slotLength * 60) ≠ 0 ∧ requestInRange (.surveyArm 1 { f with start := 91801 } true) = true ∧
    (1 ≤ 1 ∧ 1 ≤ 256 ∧ (site.entry 1).isSome = true) :=
  ⟨⟨site_ready, by decide +kernel⟩, ⟨siteNight_ready _ _, siteNight_ready _ _⟩, by decide +kernel⟩

theorem witness_SurveysAreArmedAndCancelled_idle :
    let f : SurveySpec := { start := 91800, slots := 2, runLength := 2 }
    site.ready ∧ requestInRange (.surveyArm 256 f true) = true ∧ site.clock.running = true ∧ site.entry 256 = some (entry false) ∧
      (entry false).active = false :=
  ⟨site_ready, by decide +kernel⟩

theorem witness_MeterDefineTakesTheLowestIndex :
    let f := { meterSpec with tag := 12 }
    (site.ready ∧ site.canonical ∧ requestInRange (.meterDefine f) = true) ∧
      (site.entry f.downstream ≠ none ∧ site.meterByTag f.tag = none ∧ site.meters.length < 1024 ∧
        (site.boundary f.downstream).length < 16 ∧ f.channel = none) ∧
      (site.entry 3 = none ∧ requestInRange (.meterDefine { f with downstream := 3 }) = true) ∧
      (site.meterByTag 10).isSome = true ∧
      (requestInRange (.meterDefine { f with kind := 2, modulus := 7, channel := some 7 }) = true ∧ (site.boundMeter 7).isSome = true) :=
  ⟨⟨site_ready, site_canonical, by decide +kernel⟩, by decide +kernel⟩

/-- Sixteen meters in the boundary of zone 1. -/
def crowded : State :=
  (List.range 16).foldl (fun s i => s.putMeter i { meter with tag := 100 + i }) site

theorem witness_MeterDefineTakesTheLowestIndex_full :
    16 ≤ (crowded.boundary 1).length ∧ crowded.meterByTag 12 = none ∧ (crowded.entry 1).isSome = true := by decide +kernel

theorem witness_ChainUnitRequestsWaitAndAreTaken :
    let cut := head (.meterCut 10 4294967295) none site
    let retire := head (.meterRetire 11) none site
    (site.ready ∧ site.meterByTag 10 = some 0 ∧ site.meter 0 = some meter ∧ site.meterByTag 12 = none ∧
      requestInRange (.channelSet 7 { enable := some 1, width := some 255, noise := some 255 }) = true ∧ (site.boundMeter 7).isSome = true) ∧
    (cut.link.head = some { held := { kind := 0x13, tag := 5, request := .meterCut 10 4294967295 }, reply := none } ∧ cut.chain = .idle ∧
      { cut with chain := .inHand waiting }.chain = .inHand waiting ∧ (head (.meterCut 10 0) none (applying 0 .opened .conflict)).chain ≠ .idle) ∧
    (retire.link.head = some { held := { kind := 0x12, tag := 5, request := .meterRetire 11 }, reply := none } ∧
      retire.meterByTag 11 = some 1 ∧ retire.meter 1 = some pulseMeter ∧ retire.chain = .idle ∧
      (retire.nights.any fun p => (p.2.state != .armed) && p.2.requires 1) = false ∧
      ((retire.setEntry 2 none).entry pulseMeter.downstream).any (·.active) = false) ∧
    ((siteNight 0 .opened).nights.any fun p => (p.2.state != .armed) && p.2.requires 0) = true :=
  ⟨⟨site_ready, by decide +kernel⟩, by decide +kernel⟩

theorem witness_ChannelSetConfigures :
    let f : ChannelSpec := { enable := some 1, width := some 255, noise := some 0 }
    let s := head (.channelSet 7 f) none site
    (site.link.resetLow = false ∧ requestInRange (.channelSet 0 f) = true ∧ site.ready ∧ site.boundMeter 0 = none) ∧
      (s.link.head = some { held := { kind := 0x17, tag := 5, request := .channelSet 7 f }, reply := none } ∧
        s.boundMeter 7 = some (1, pulseMeter) ∧ s.meter 1 = some pulseMeter ∧ s.chain = .idle ∧
        s.inHand.any (fun w => w.meter = 1) = false ∧
        (State.inHand { s with chain := .inHand { waiting with meter := 1 } }).any (fun w => w.meter = 1) = true) :=
  ⟨⟨rfl, rfl, site_ready, by decide +kernel⟩, by decide +kernel⟩

theorem witness_ChannelReadReports : site.ready ∧ 7 ≤ 7 ∧ (site.boundMeter 7).isSome = true ∧ site.boundMeter 0 = none :=
  ⟨site_ready, by decide +kernel⟩

theorem witness_MeterReportsEmptyTheRecord :
    site.ready ∧ site.canonical ∧ site.meterByTag 12 = none ∧ site.meterByTag 10 = some 0 ∧ site.meter 0 = some meter ∧ 1023 ≤ 1023 ∧
      (site.meters.filter fun p => 0 ≤ p.1 && p.2.exceptions.isSome).length ≤ 16 :=
  ⟨site_ready, site_canonical, by decide +kernel⟩

theorem witness_ReadingsAreTakenRecordByRecord :
    let full : State := { site with intake := { queue := List.replicate 56 waiting, next := 57 } }
    (State.reset.clock.running = false ∧ site.clock.running = true ∧ site.meterByTag 12 = none ∧ site.meterByTag 10 = some 0 ∧
      site.meter 0 = some meter ∧ site.meterByTag 11 = some 1 ∧ pulseMeter.kind = .pulse ∧ meter.kind ≠ .pulse ∧ meter.modulus ≤ 10000 ∧
      ¬ meter.modulus ≤ 9999 ∧ site.clock.time + 300 < 90301 ∧ 90300 ≤ site.clock.time + 300 ∧ 56 ≤ full.hostWaiting ∧
      site.hostWaiting < 56) ∧
    site.ready ∧ 1 ≤ 1 ∧ 16 ≤ 16 := ⟨by decide +kernel, site_ready, by decide⟩

theorem witness_PulsesAreJudgedByTheirWidth :
    let low (m : Bool) : State := site.setChannel 7 { site.channel 7 with lineLow := true, enable := true, measuring := m }
    7 < 8 ∧ site.link.resetLow = false ∧ (site.channel 7).lineLow = false ∧ ((low true).channel 7).lineLow = true ∧
      ((low true).channel 7).enable = true ∧ ((low true).channel 7).measuring = true ∧ ((low true).channel 7).width ≤ 10000 / 1000 ∧
      9999 / 1000 < ((low true).channel 7).width ∧ ((low false).channel 7).measuring = false := by decide +kernel

theorem witness_ChainUnitTakesAndDecides :
    let s : State := { site with intake := { queue := [waiting], next := 2 } }
    let t : State := { site with chain := .inHand waiting }
    (s.link.resetLow = false ∧ s.chain = .idle ∧ s.intake.queue = [waiting] ∧ s.link.head = none) ∧ t.chain ≠ .idle ∧
      site.intake.queue = [] ∧ (t.chain = .inHand waiting ∧ t.meter waiting.meter = some meter) ∧ site.chain = .idle := by decide +kernel

theorem witness_StaleBeforeTheCutTime :
    let m := { meter with cut := some 90801 }
    let s : State := { site.putMeter 0 m with chain := .inHand waiting }
    s.link.resetLow = false ∧ s.chain = .inHand waiting ∧ s.meter waiting.meter = some m ∧ waiting.reading.time < 90801 ∧
      90800 ≤ waiting.reading.time ∧ meter.cut = none := by decide +kernel

theorem witness_ChainDecisionByTheChain :
    (∀ c, meter.cut = some c → c ≤ 0) ∧ meter.chain.Pairwise (fun a b => a.time < b.time) ∧ meter.chain.length ≤ 8 ∧
      meter.chain = [reading 89000 5] ++ [reading 89900 9] ∧ (reading 89900 9).time < (reading 89901 1).time ∧
      (reading 88999 1).time < (reading 89000 5).time ∧ (reading 89000 5).time < (reading 89001 1).time ∧
      (reading 89001 1).time < (reading 89900 9).time ∧ pulseMeter.chain = [] ∧
      (List.replicate 8 (reading 0 0)).length = 8 := by
  refine ⟨fun c h => ?_, by decide +kernel⟩
  cases h

theorem witness_SegmentVolume :
    0 < meter.modulus ∧ (reading 1 9999).forward < meter.modulus ∧ (reading 2 0).forward < meter.modulus ∧ (reading 1 9999).time < (reading 2 0).time ∧
      meter.kind ≠ .bidir ∧ { meter with kind := .bidir }.kind = .bidir ∧
      { reading 1 0 with reverse := some 9999 }.reverse = some 9999 ∧ 9999 < meter.modulus ∧
      { reading 1 0 with noisy := some true }.noisy = some true ∧ (reading 1 0).noisy ≠ some true ∧
      meter.maxGap < (reading 3602 0).time - (reading 1 0).time ∧ (reading 3601 0).time - (reading 1 0).time ≤ meter.maxGap ∧
      meter.maxRate * (2 - 1) / 3600 < meter.forwardDelta (reading 1 5) (reading 2 1006) * meter.scale ∧
      (meter.segment (reading 1 5) (reading 2 1005)).bad = none ∧ (meter.segment (reading 1 5) (reading 2 1006)).bad = some .spike := by
  decide +kernel

theorem witness_SharesTelescope :
    0 < 900 ∧ segment.t1 < segment.t2 ∧ segment.overlaps 90000 (90000 + 900) = true ∧ segment.overlaps 90900 (90900 + 900) = false ∧
      90000 ≤ segment.t1 ∧ segment.t2 ≤ 90000 + 1 * 900 := by decide +kernel

theorem witness_PlacementReachesOneNight :
    let r : NightRef := { zone := 1, desc := 0 }
    let good : ChainChange := .segments none [segment]
    let bad : ChainChange := .segments none [{ segment with bad := some .spike }]
    ((applying 0 .opened good).link.resetLow = false ∧ (applying 0 .opened good).night r = some (night .opened) ∧
      r ∈ (applying 0 .opened good).unreached (application good) ∧ (night .opened).tracked = true ∧
      handedDefects 900 0 (night .opened) [segment] = []) ∧
    handedDefects 900 0 (night .opened) [{ segment with bad := some .spike }] = [.spike] ∧
    ((night .opened).requires 0 = true ∧ (night .opened).start ≤ 90800 ∧ 90800 < (night .opened).windowEnd 900 ∧
      r ∈ (applying 0 .opened .conflict).unreached (application .conflict)) ∧
    ((night .queued).frozen = true ∧ good.wouldChange 900 0 (night .queued) = true ∧ bad.wouldChange 900 0 (night .queued) = true ∧
      ChainChange.conflict.wouldChange 900 0 (night .queued) = false ∧ r ∈ (applying 0 .queued good).unreached (application good)) ∧
    ((night .armed).state = .armed ∧ r ∈ (applying 0 .armed good).unreached (application good)) := by decide +kernel

/-- A split whose halves hand two defects, equal or not; a CONFLICT at the edges of a window and for a meter not required; a night
reached already; the defects and the changes of either kind. -/
theorem witness_PlacementReachesOneNight_split :
    let r : NightRef := { zone := 1, desc := 0 }
    let spike : Segment := { segment with bad := some .spike }
    let noisy : Segment := { t1 := 90300, t2 := 90400, volume := 0, bad := some .noisy }
    let gap : Segment := { segment with bad := some .gap }
    (handedDefects 900 0 (night .opened) [spike, noisy] = [.spike, .noisy] ∧
      handedDefects 900 0 (night .opened) [spike, spike] = [.spike, .spike] ∧
      r ∈ (applying 0 .opened (.segments (some segment) [spike, noisy])).unreached (application (.segments (some segment) [spike, noisy]))) ∧
    ({ night .opened with required := [] }.requires 0 = false ∧ 90800 < { night .opened with start := 90801 }.start ∧
      { night .opened with start := 90800 - 2 * 900 }.windowEnd 900 ≤ 90800) ∧
    (r ∉ (applying 0 .opened .conflict).unreached { application .conflict with reached := [r] } ∧ site.chain = .idle) ∧
    ((night .opened).quality = .clean ∧ (night .armed).tracked = false ∧ { night .opened with quality := .spike }.quality ≠ .clean) ∧
    (ChainChange.wouldChange 900 0 (night .queued) (.segments (some segment) [gap]) = true ∧
      ChainChange.wouldChange 900 0 (night .queued) (.segments (some spike) [gap]) = false ∧
      ChainChange.wouldChange 900 0 (night .queued) (.segments none [noisy]) = true) ∧
    ((siteNight 0 .closing).night r = some (night .closing) ∧
      ((night .closing).slots.all fun x => x.covered.all fun c => c = 900) = false ∧
      ({ night .closing with slots := [] }.slots.all fun x => x.covered.all fun c => c = 900) = true) := by decide +kernel

/-- Of two defects handed by one split the one the world takes first stays. -/
theorem test_split_defects_in_either_order :
    let change : ChainChange := .segments none [{ segment with bad := some .spike }, { t1 := 90300, t2 := 90400, volume := 0, bad := some .noisy }]
    let s := applying 0 .opened change
    let quality (w : Nat) := ((after (.placement 1 0) { s with world := [w] }).night { zone := 1, desc := 0 }).map (·.quality)
    quality 0 = some .spike ∧ quality 1 = some .noisy := by decide +kernel

theorem witness_PlacingAddsSharesToSlots :
    segment.bad = none ∧ (night .opened).position 0 = some (0, .inflow) ∧
      (night .opened).slots[0]? = some { inflow := 30, outflow := 0, covered := [900] } ∧ segment.overlaps 90000 90900 = true ∧
      (night .opened).slots[1]? = some { inflow := 7, outflow := 0, covered := [0] } ∧ segment.overlaps 90900 91800 = false := by decide +kernel

theorem witness_PlacingAddsSharesToSlots_change :
    (∀ q ∈ (night .opened).required, q.meter ≠ 1) ∧ (night .opened).change 900 0 (some segment) [segment] = night .opened := by decide +kernel

theorem witness_AssessorTakesTheHead :
    let s : State := { siteNight 0 .queued with assess := { queue := [{ zone := 1, desc := 0 }], flight := none } }
    (s.link.resetLow = false ∧ s.assess = { queue := [{ zone := 1, desc := 0 }], flight := none } ∧
      s.night { zone := 1, desc := 0 } = some (night .queued) ∧ s.entry 1 = some (entry true)) ∧ site.assess.queue = [] ∧
      (night .queued).minimum 900 = some (0, 120) ∧ { night .queued with runLength := 2 }.runs 900 = [] := by decide +kernel

theorem witness_MinimumIsTheEarliestLeastRate :
    0 < (night .queued).runLength ∧ 0 ∈ (night .queued).runs 900 ∧ (night .queued).minimum 900 = some (0, 120) := by decide +kernel

theorem witness_AllowanceOfANight : (entry true).properties ≤ 65535 ∧ (entry true).perProperty ≤ 255 ∧ (entry true).users.length ≤ 8 ∧
    ∀ u ∈ (entry true).users, u.allowance ≤ 65535 := by decide +kernel

theorem witness_CompletionHandsOverTheResult :
    let f : Flight := { night := { zone := 1, desc := 0 }, completeCount := 1, mnf := 120, runStart := 0, lnu := 0 }
    let s : State := { siteNight 0 .assessing with assess := { queue := [], flight := some f } }
    s.link.resetLow = false ∧ s.assess.flight = some f ∧ s.night f.night = some (night .assessing) ∧ site.assess.flight = none := by decide +kernel

theorem witness_ResultsByVerdictState :
    site.entry 1 = some (entry true) ∧ (verdict .learning).state = .learning ∧ (verdict .learning).count + 1 = (entry true).tests.learn ∧
      ({ verdict .learning with count := 5 }).count + 1 < (entry true).tests.learn ∧ (result false .spike 1).quality ≠ .clean ∧
      (result false .disturbed 1).quality = .disturbed ∧ (result true .clean 1).survey = true ∧ (verdict .alarm).waiting = none ∧
      ({ verdict .alarm with waiting := some (result false .clean 1) }).waiting.isSome = true ∧
      ((judging (verdict .alarm)).zone 1).verdict.state = .alarm ∧ ((judging (verdict .repair)).zone 1).verdict.state = .repair ∧
      ((judging (verdict .suspect)).zone 1).verdict.state = .suspect ∧ (result false .clean 1).quality ≠ .disturbed ∧
      ((judging (verdict .normal)).zone 1).verdict.state ≠ .learning ∧ (result true .spike 1).quality ≠ .disturbed := by decide +kernel

theorem witness_TestComputesSAndP :
    (verdict .normal).state = .normal ∧ (result false .clean 200).quality ≠ .disturbed ∧ ((verdict .normal).cusum : Int) + 200 - testsSpec.slack ≤ 0 ∧
      0 < ((verdict .normal).cusum : Int) + 201 - testsSpec.slack ∧ (testsSpec.burst : Int) ≤ 2000 ∧ (1999 : Int) < testsSpec.burst := by decide +kernel

theorem witness_TestedResultSetsTheVerdict :
    let t := testsSpec
    ((verdict .normal).state = .normal ∧ (result false .clean 2000).quality ≠ .disturbed) ∧ nextPersistence t 1 2000 = t.persist ∧
      (nextPersistence t 0 2000 ≠ t.persist ∧ t.limit ≤ nextCusum t 3200 2000) ∧
      (nextPersistence t 0 2000 ≠ t.persist ∧ nextCusum t 3199 2000 < t.limit ∧ (t.burst : Int) ≤ 2000) ∧
      (nextPersistence t 1 1999 ≠ t.persist ∧ nextCusum t 0 1999 < t.limit ∧ (1999 : Int) < t.burst) := by decide +kernel

theorem witness_DispositionsEndAnAlarm :
    ((judging (verdict .alarm)).ready ∧ (judging (verdict .repair)).ready ∧ site.ready) ∧
      (site.entry 1 = some (entry true) ∧ (judging (verdict .alarm)).entry 1 = some (entry true) ∧
        ((judging (verdict .alarm)).zone 1).verdict.state = .alarm ∧ ((judging (verdict .alarm)).zone 1).verdict.alarm.isSome = true ∧
        ((judging (verdict .repair)).zone 1).verdict.state = .repair ∧ (site.zone 1).verdict.state ≠ .alarm ∧
        (site.zone 1).verdict.state ≠ .repair ∧ 0 < (entry true).tests.settleLength ∧
        { testsSpec with settleLength := 0 }.settleLength = 0) :=
  ⟨⟨judging_ready _, judging_ready _, site_ready⟩, by decide +kernel⟩

theorem witness_BaselinesAreReplaced :
    (site.ready ∧ (judging (verdict .alarm)).ready) ∧
      (site.entry 1 = some (entry true) ∧ requestInRange (.baselinePut 1 (-2147483647) 30 2147483647) = true ∧
        (site.zone 1).verdict.state ≠ .alarm ∧ (site.zone 1).verdict.state ≠ .repair ∧
        ((judging (verdict .alarm)).zone 1).verdict.state = .alarm) := ⟨⟨site_ready, judging_ready _⟩, by decide +kernel⟩

theorem witness_BaselineGetReports : site.ready ∧ site.entry 3 = none ∧ (site.entry 256).isSome = true ∧ 1 ≤ 1 ∧ 256 ≤ 256 :=
  ⟨site_ready, by decide +kernel⟩

theorem witness_ResultsAndZonesAreReported : site.ready ∧ site.entry 1 = some (entry true) ∧ 2 ≤ 2 := ⟨site_ready, by decide +kernel⟩

theorem witness_StreamsAreCommanded :
    (site.ready ∧ (streaming (.step 255 3) .awaitReply site).ready ∧ (streaming (.once 1 256) .offered site).ready ∧
      (siteNight 0 .opened).ready ∧ (siteNight 2 .armed).ready) ∧
    (requestInRange (.rollcall 256 1 1) = true ∧ site.stream = none ∧ (streaming (.once 1 256) .offered site).stream.isSome = true ∧
      requestInRange (.profile 1 0) = true ∧ (site.entry 1).isSome = true ∧ site.night { zone := 1, desc := 0 } = none ∧
      (siteNight 0 .opened).night { zone := 1, desc := 0 } = some (night .opened) ∧ (night .opened).state ≠ .armed ∧
      (siteNight 2 .armed).night { zone := 1, desc := 2 } = some (night .armed)) ∧
    ((site.entry ((255 + 1 - 1) % 256 + 1)).isSome = true ∧ site.entry ((255 + 0 - 1) % 256 + 1) = none ∧ 1 < 3 ∧
      ∀ k, k < 3 → site.entry ((3 + k - 1) % 256 + 1) = none) :=
  ⟨⟨site_ready, ⟨rfl, rfl, rfl⟩, ⟨rfl, rfl, rfl⟩, siteNight_ready _ _, siteNight_ready _ _⟩, by decide +kernel⟩

/-- The site with TAKE_READING at the front of its queue. -/
def stepping : State := { site with intake := { queue := [waiting], next := 2 }, pending := [.takeReading] }

theorem stepping_steps : step stepping = .next { site with intake := { queue := [], next := 2 }, chain := .inHand waiting } := rfl

theorem witness_invariants :
    stepping.chainsOrdered ∧ stepping.intakeBounded ∧ stepping.noticesDistinct ∧ stepping.waitingOnlyInAlarm ∧ stepping.rejectsBounded ∧
      stepping.canonical ∧ stepping.quiet ∧ stepping.clock.running = true ∧
      (∀ b p rest, stepping.pending ≠ .powerOn b p :: rest) ∧ (∀ p rest, stepping.pending ≠ .resetRelease p :: rest) ∧
      stepping.poolBounded ∧ stepping.reserveKept := by
  refine ⟨?_, ?_, ?_, ?_, ?_, site_canonical, fun _ => rfl, rfl, ?_, ?_, ?_, ?_⟩
  · unfold State.chainsOrdered; decide +kernel
  · refine ⟨by decide +kernel, fun c => ?_, by decide +kernel, by decide +kernel⟩
    simp [stepping, waiting]
  · unfold State.noticesDistinct; decide +kernel
  · unfold State.waitingOnlyInAlarm; decide +kernel
  · unfold State.rejectsBounded; decide +kernel
  · intro b p rest h
    cases h
  · intro p rest h
    cases h
  · unfold State.poolBounded; decide +kernel
  · unfold State.reserveKept; decide +kernel

end Sys2Proof.Tests
end

/-! Reading chains and apportionment (chapter 04): the chain decision against the cut time (R52), the volume and the
judgement of a segment (R58, R59), and its shares among slots (R60). -/

section

namespace Sys2Proof.Machine

/-! ### Shares at the ends of a segment (R60) -/

@[simp] theorem Segment.share_start (g : Segment) : g.share g.t1 = 0 := by
  simp [Segment.share]

theorem Segment.share_stop (g : Segment) (h : g.t1 < g.t2) : g.share g.t2 = g.volume := by
  have hd : ((g.t2 - g.t1 : Nat) : Int) ≠ 0 := by omega
  exact Int.mul_tdiv_cancel g.volume hd

/-! ### Overlaps (R60) -/

theorem Segment.overlaps_iff (g : Segment) (a b : Nat) : g.overlaps a b = true ↔ max g.t1 a < min g.t2 b :=
  decide_eq_true_iff

theorem Segment.coverageIn_pos {g : Segment} {a b : Nat} (h : g.overlaps a b = true) : 1 ≤ g.coverageIn a b :=
  Nat.sub_pos_of_lt ((g.overlaps_iff a b).1 h)

/-- A segment covers no more of a slot than its length. -/
theorem Segment.coverageIn_le (g : Segment) (a L : Nat) : g.coverageIn a (a + L) ≤ L := by
  unfold Segment.coverageIn Segment.overlapEnd Segment.overlapStart
  omega

/-! ### Shares telescope (R60)

What a segment puts into a span is the difference of one function at the span's two ends: the share, or the time, at
the instant of the segment nearest to that end. -/

/-- The instant of a segment nearest to `x`. -/
def Segment.nearest (g : Segment) (x : Nat) : Nat := max g.t1 (min g.t2 x)

theorem Segment.nearest_of_le {g : Segment} {x : Nat} (h : x ≤ g.t1) (hg : g.t1 < g.t2) : g.nearest x = g.t1 := by
  unfold Segment.nearest
  omega

theorem Segment.nearest_of_ge {g : Segment} {x : Nat} (h : g.t2 ≤ x) (hg : g.t1 < g.t2) : g.nearest x = g.t2 := by
  unfold Segment.nearest
  omega

/-- An overlap begins and ends at the instants of the segment nearest to the ends of the span. -/
theorem Segment.nearest_of_overlaps {g : Segment} {a b : Nat} (h : g.overlaps a b = true) :
    g.nearest a = g.overlapStart a ∧ g.nearest b = g.overlapEnd b := by
  rw [g.overlaps_iff] at h
  unfold Segment.nearest Segment.overlapStart Segment.overlapEnd
  omega

/-- The ends of a span that a segment does not overlap are nearest to the same instant of it. -/
theorem Segment.nearest_eq_of_not_overlaps {g : Segment} {a b : Nat} (hg : g.t1 < g.t2) (hab : a < b)
    (h : ¬ g.overlaps a b = true) : g.nearest a = g.nearest b := by
  rw [g.overlaps_iff] at h
  unfold Segment.nearest
  omega

/-- A span's volume, 0 where the segment does not overlap it, is a difference of shares. -/
theorem Segment.volume_of_span {g : Segment} {a b : Nat} (hg : g.t1 < g.t2) (hab : a < b) :
    (if g.overlaps a b then g.volumeIn a b else 0) = g.share (g.nearest b) - g.share (g.nearest a) := by
  by_cases h : g.overlaps a b
  · obtain ⟨ha, hb⟩ := Segment.nearest_of_overlaps h
    rw [if_pos h, ha, hb, Segment.volumeIn]
  · rw [if_neg h, Segment.nearest_eq_of_not_overlaps hg hab h, sub_self]

/-- A span's coverage, 0 where the segment does not overlap it, is a difference of instants. -/
theorem Segment.coverage_of_span {g : Segment} {a b : Nat} (hg : g.t1 < g.t2) (hab : a < b) :
    ((if g.overlaps a b then g.coverageIn a b else 0 : Nat) : Int) = (g.nearest b : Int) - g.nearest a := by
  by_cases h : g.overlaps a b
  · obtain ⟨ha, hb⟩ := Segment.nearest_of_overlaps h
    have hlt : g.overlapStart a < g.overlapEnd b := (g.overlaps_iff a b).1 h
    rw [if_pos h, ha, hb, Segment.coverageIn, Nat.cast_sub hlt.le]
  · rw [if_neg h, Segment.nearest_eq_of_not_overlaps hg hab h, sub_self, Nat.cast_zero]

/-- Differences over adjoining spans of length `L` sum to the difference over the whole. -/
theorem sum_adjoining {f v : Nat → Int} {L : Nat} (h : ∀ b, v b = f (b + L) - f b) (a n : Nat) :
    ((List.range n).map fun k => v (a + k * L)).sum = f (a + n * L) - f a := by
  have step (k : Nat) : v (a + k * L) = f (a + (k + 1) * L) - f (a + k * L) := by rw [h, add_assoc, ← Nat.succ_mul]
  simp only [step]
  simpa using List.sum_range_sub n fun k => f (a + k * L)

/-- The slot volumes of adjoining slots that a segment fills sum to its volume. -/
theorem Segment.sum_volumeIn {g : Segment} {L a n : Nat} (hL : 0 < L) (hg : g.t1 < g.t2) (ha : a ≤ g.t1)
    (hn : g.t2 ≤ a + n * L) :
    ((List.range n).map fun k =>
      if g.overlaps (a + k * L) (a + k * L + L) then g.volumeIn (a + k * L) (a + k * L + L) else 0).sum = g.volume := by
  have h := sum_adjoining (f := fun x => g.share (g.nearest x))
    (fun b => Segment.volume_of_span (b := b + L) hg (Nat.lt_add_of_pos_right hL)) a n
  rw [h, Segment.nearest_of_ge hn hg, Segment.nearest_of_le ha hg, g.share_stop hg, g.share_start, sub_zero]

/-- The slot coverages of adjoining slots that a segment fills sum to its duration. -/
theorem Segment.sum_coverageIn {g : Segment} {L a n : Nat} (hL : 0 < L) (hg : g.t1 < g.t2) (ha : a ≤ g.t1)
    (hn : g.t2 ≤ a + n * L) :
    ((List.range n).map fun k =>
      if g.overlaps (a + k * L) (a + k * L + L) then g.coverageIn (a + k * L) (a + k * L + L) else 0).sum =
      g.t2 - g.t1 := by
  have h := sum_adjoining (f := fun x => (g.nearest x : Int))
    (fun b => Segment.coverage_of_span (b := b + L) hg (Nat.lt_add_of_pos_right hL)) a n
  rw [Segment.nearest_of_ge hn hg, Segment.nearest_of_le ha hg, ← Nat.cast_sub hg.le] at h
  apply Nat.cast_injective (R := Int)
  rw [← h, Nat.cast_list_sum, List.map_map]
  rfl

/-! ### A withdrawal undoes a placement (R60, R63) -/

theorem addVolume_neg_addVolume (x : Slot) (role : Role) (v : Int) (c c' : List Nat) :
    { { x.addVolume role v with covered := c }.addVolume role (-v) with covered := c' } = { x with covered := c' } := by
  cases role <;> simp [Slot.addVolume]

theorem modify_add_modify_sub (l : List Nat) (pos c : Nat) : (l.modify pos (· + c)).modify pos (· - c) = l := by
  rw [List.modify_modify_eq]
  simp [Function.comp_def, modify_same]

theorem Slot.withdraw_place (L : Nat) (g : Segment) (pos : Nat) (role : Role) (a : Nat) (x : Slot) :
    Slot.withdraw L g pos role a (Slot.place L g pos role a x) = x := by
  unfold Slot.withdraw Slot.place
  by_cases h : g.overlaps a (a + L)
  · simp only [if_pos h, addVolume_neg_addVolume, modify_add_modify_sub]
  · simp only [if_neg h]

/-- Settles O40: slot volumes and coverages are differences of one function at a slot's ends, so they telescope. -/
theorem sharesTelescope : Obligations.SharesTelescope := by
  unfold Obligations.SharesTelescope
  intro g L hL hg
  refine ⟨fun _ _ _ => rfl, g.share_start, g.share_stop hg, fun a => ⟨g.overlaps_iff a (a + L), fun ho => ?_⟩,
    fun a n ha hn => ⟨Segment.sum_volumeIn hL hg ha hn, Segment.sum_coverageIn hL hg ha hn⟩, Slot.withdraw_place L g⟩
  exact ⟨rfl, rfl, Segment.coverageIn_pos ho, g.coverageIn_le a L⟩

/-! ### The cut time (R52) -/

theorem Meter.decide_of_before_cut {m : Meter} {r : Reading} {c : Nat} (hc : m.cut = some c) (h : r.time < c) :
    m.decide r = m.drop none [.stale] := by
  simp [Meter.decide, hc, h]

/-- A cut time that is not after the reading plays no part in the decision. -/
theorem Meter.decide_of_not_before_cut {m : Meter} {r : Reading} (h : ∀ c, m.cut = some c → c ≤ r.time) :
    m.decide r = { m with cut := none }.decide r := by
  have hcut : ¬ m.cut.any (fun c => r.time < c) = true := by
    cases hc : m.cut with
    | none => simp
    | some c => simpa using h c hc
  unfold Meter.decide
  rw [if_neg hcut]
  rfl

/-- A decision that leaves the chain as it was and changes no night: its exceptions are recorded, the application ends. -/
theorem State.chainDecision_of_drop {s : State} {w : Waiting} {m : Meter} {codes : List ExceptionCode}
    (hs : s.chain = .inHand w) (hm : s.meter w.meter = some m) (hd : m.decide w.reading = m.drop none codes) :
    s.chainDecision =
      State.quiesce
        { (s.putMeter w.meter m).recordExceptions w.meter codes w.reading.time with chain := .idle } := by
  simp only [State.chainDecision, hs, hm, hd, Meter.drop]

theorem execChainDecision_of_live {s : State} (h : s.link.resetLow = false) :
    exec .chainDecision s = .next s.chainDecision.afterwards := by
  change execChainDecision s = _
  simp [execChainDecision, State.live, h]

/-- Settles O37: a reading before the cut time meets the first case of the decision, any other one passes it. -/
theorem staleBeforeTheCutTime : Obligations.StaleBeforeTheCutTime := by
  unfold Obligations.StaleBeforeTheCutTime
  intro s w m hlive hs hm
  refine ⟨fun c hc hlt => ?_, fun h => Meter.decide_of_not_before_cut fun c hc => ?_⟩
  · rw [execChainDecision_of_live hlive, State.chainDecision_of_drop hs hm (Meter.decide_of_before_cut hc hlt)]
    rfl
  · rcases h with hnone | ⟨c', hc', hle⟩
    · simp [hnone] at hc
    · obtain rfl : c' = c := Option.some.inj (hc'.symm.trans hc)
      exact hle

/-! ### The volume and the judgement of a segment (R58, R59) -/

theorem registerDelta_le {modulus : Nat} (h : 0 < modulus) (earlier later : Nat) :
    registerDelta modulus earlier later ≤ modulus - 1 :=
  Nat.le_sub_one_of_lt (Nat.mod_lt _ h)

theorem Meter.volume_of_not_bidir {m : Meter} (h : m.kind ≠ .bidir) (a b : Reading) :
    m.volume a b = (m.forwardDelta a b : Int) * m.scale :=
  if_neg h

theorem Meter.volume_of_bidir {m : Meter} (h : m.kind = .bidir) (a b : Reading) :
    m.volume a b = ((m.forwardDelta a b : Int) - m.reverseDelta a b) * m.scale :=
  if_pos h

theorem Meter.reverseDelta_of_reverse {m : Meter} {a b : Reading} {x y : Nat} (hx : a.reverse = some x)
    (hy : b.reverse = some y) : m.reverseDelta a b = registerDelta m.modulus x y := by
  simp [Meter.reverseDelta, hx, hy]

theorem Meter.spikes_iff (m : Meter) (a b : Reading) :
    m.spikes a b = true ↔
      m.allowance a b < m.forwardDelta a b * m.scale ∨
        (m.kind = .bidir ∧ m.allowance a b < m.reverseDelta a b * m.scale) ∨
        m.volume a b < -2147483647 ∨ 2147483647 < m.volume a b := by
  simp [Meter.spikes, or_assoc]

theorem Meter.badCause_of_noisy {m : Meter} {a b : Reading} (h : a.noisy = some true ∨ b.noisy = some true) :
    m.badCause a b = some .noisy :=
  if_pos h

theorem Meter.badCause_of_gap {m : Meter} {a b : Reading} (hn : ¬ (a.noisy = some true ∨ b.noisy = some true))
    (hg : m.maxGap < b.time - a.time) : m.badCause a b = some .gap := by
  rw [Meter.badCause, if_neg hn, if_pos hg]

/-- Past the first two steps of R59 the third decides. -/
theorem Meter.badCause_of_near {m : Meter} {a b : Reading} (hn : ¬ (a.noisy = some true ∨ b.noisy = some true))
    (hg : b.time - a.time ≤ m.maxGap) : m.badCause a b = if m.spikes a b then some .spike else none := by
  rw [Meter.badCause, if_neg hn, if_neg (Nat.not_lt.2 hg)]

/-- Settles O39: the deltas lie below the modulus, and the three steps of R59 decide in their order. -/
theorem segmentVolume : Obligations.SegmentVolume := by
  unfold Obligations.SegmentVolume
  intro m a b hpos _ _ htime
  refine ⟨rfl, rfl, Nat.sub_pos_of_lt htime, rfl, registerDelta_le hpos _ _, fun hk => m.volume_of_not_bidir hk a b,
    fun x y hk hx hy _ _ => ?_, Meter.badCause_of_noisy, fun ha hb => ?_⟩
  · have hr := Meter.reverseDelta_of_reverse (m := m) hx hy
    exact ⟨hr, hr ▸ registerDelta_le hpos x y, m.volume_of_bidir hk a b⟩
  · have hn : ¬ (a.noisy = some true ∨ b.noisy = some true) := not_or.2 ⟨ha, hb⟩
    refine ⟨Meter.badCause_of_gap hn, fun hg => ?_⟩
    have hbad : (m.segment a b).bad = if m.spikes a b then some .spike else none := Meter.badCause_of_near hn hg
    exact ⟨fun hfast => hbad.trans (if_pos ((m.spikes_iff a b).2 hfast)),
      fun hslow => hbad.trans (if_neg fun h => hslow ((m.spikes_iff a b).1 h))⟩

end Sys2Proof.Machine

end

/-! The night assessment (chapter 06): the runs of a night and the rate of each (R95, R97), the earliest of the least
rates (R98), and the allowance of a night (R100, R101). -/

section

namespace Sys2Proof.Machine

/-! ### Runs (R95) -/

theorem Night.runSlots_length (n : Night) (i : Nat) : (n.runSlots i).length = min n.runLength (n.slots.length - i) := by
  rw [Night.runSlots, List.length_take, List.length_drop]

theorem Night.mem_runSlots {n : Night} {i : Nat} {x : Slot} :
    x ∈ n.runSlots i ↔ ∃ k < n.runLength, n.slots[i + k]? = some x := by
  simp [Night.runSlots, List.mem_iff_getElem?, List.getElem?_take]

/-- With K at least 1, K complete slots start at `i` when they fit and each of them is complete. -/
theorem Night.isRun_iff {L : Nat} {n : Night} {i : Nat} (hK : 0 < n.runLength) :
    n.isRun L i = true ↔
      i + n.runLength ≤ n.slots.length ∧ ∀ k < n.runLength, ∀ x, n.slots[i + k]? = some x → x.complete L = true := by
  have hfit : min n.runLength (n.slots.length - i) = n.runLength ↔ i + n.runLength ≤ n.slots.length := by omega
  have hall : (n.runSlots i).all (Slot.complete L) = true ↔
      ∀ k < n.runLength, ∀ x, n.slots[i + k]? = some x → x.complete L = true := by
    simp only [List.all_eq_true, Night.mem_runSlots]
    exact ⟨fun h k hk x hx => h x ⟨k, hk, hx⟩, fun h x ⟨k, hk, hx⟩ => h k hk x hx⟩
  rw [Night.isRun, Bool.and_eq_true, decide_eq_true_iff, n.runSlots_length, hfit, hall]

theorem Night.mem_runs {L : Nat} {n : Night} {i : Nat} (hK : 0 < n.runLength) : i ∈ n.runs L ↔ n.isRun L i = true := by
  rw [Night.runs, List.mem_filter, List.mem_range, and_iff_right_iff_imp, Night.isRun_iff hK]
  rintro ⟨hfit, -⟩
  omega

/-- The start indices stand in rising order. -/
theorem Night.runs_pairwise (L : Nat) (n : Night) : (n.runs L).Pairwise (· < ·) :=
  List.pairwise_lt_range.filter _

/-! ### The earliest of the least rates (R98) -/

theorem leastRate_eq_none {xs : List (Nat × Int)} : leastRate xs = none ↔ xs = [] := by
  cases xs with
  | nil => simp [leastRate]
  | cons x rest =>
    rw [leastRate]
    split
    · simp
    · split <;> simp

/-- The pair chosen is less than every pair before it and at most every pair after it. -/
theorem leastRate_eq_some {xs : List (Nat × Int)} {y : Nat × Int} (h : leastRate xs = some y) :
    ∃ before after, xs = before ++ y :: after ∧ (∀ x ∈ before, y.2 < x.2) ∧ ∀ x ∈ after, y.2 ≤ x.2 := by
  induction xs generalizing y with
  | nil => simp [leastRate] at h
  | cons x rest ih =>
    rw [leastRate] at h
    cases hrest : leastRate rest with
    | none =>
      obtain rfl : x = y := by simpa [hrest] using h
      exact ⟨[], rest, rfl, by simp, by simp [leastRate_eq_none.1 hrest]⟩
    | some z =>
      obtain ⟨before, after, rfl, hbefore, hafter⟩ := ih hrest
      simp only [hrest] at h
      split at h
      case isTrue hle =>
        obtain rfl : x = y := Option.some.inj h
        refine ⟨[], before ++ z :: after, rfl, by simp, fun w hw => ?_⟩
        rcases List.mem_append.1 hw with hw | hw
        · exact hle.trans (hbefore w hw).le
        · rcases List.mem_cons.1 hw with rfl | hw
          · exact hle
          · exact hle.trans (hafter w hw)
      case isFalse hlt =>
        obtain rfl : z = y := Option.some.inj h
        exact ⟨x :: before, after, rfl, List.forall_mem_cons.2 ⟨not_le.1 hlt, hbefore⟩, hafter⟩

theorem Night.minimum_eq_none {L : Nat} {n : Night} : n.minimum L = none ↔ n.runs L = [] := by
  rw [Night.minimum, leastRate_eq_none, List.map_eq_nil_iff]

/-- The MNF is less than the rate of every earlier run and at most the rate of every later one. -/
theorem Night.minimum_eq_some {L : Nat} {n : Night} {i : Nat} {v : Int} (h : n.minimum L = some (i, v)) :
    v = n.rate L i ∧ ∃ before after, n.runs L = before ++ i :: after ∧
      (∀ j ∈ before, v < n.rate L j) ∧ ∀ j ∈ after, v ≤ n.rate L j := by
  obtain ⟨before, after, hsplit, hbefore, hafter⟩ := leastRate_eq_some h
  obtain ⟨bs, tail, hruns, rfl, htail⟩ := List.map_eq_append_iff.1 hsplit
  obtain ⟨i', as, rfl, hi, rfl⟩ := List.map_eq_cons_iff.1 htail
  obtain ⟨rfl, rfl⟩ := Prod.mk.inj hi
  rw [List.forall_mem_map] at hbefore hafter
  exact ⟨rfl, bs, as, hruns, hbefore, hafter⟩

/-- Settles O44: the start indices rise, so the pair that splits the runs into larger rates before it and no smaller ones
after it is the earliest run of the least rate. -/
theorem minimumIsTheEarliestLeastRate : Obligations.MinimumIsTheEarliestLeastRate := by
  unfold Obligations.MinimumIsTheEarliestLeastRate
  intro L n hK
  refine ⟨fun i => (Night.mem_runs hK).trans (Night.isRun_iff hK), fun _ _ => rfl, Night.minimum_eq_none, fun i v h => ?_⟩
  obtain ⟨hv, before, after, hruns, hbefore, hafter⟩ := Night.minimum_eq_some h
  have hmem : i ∈ n.runs L := by simp [hruns]
  have hcases : ∀ j ∈ n.runs L, j ∈ before ∨ j = i ∨ j ∈ after := by simp [hruns]
  have hrise : ∀ j ∈ after, i < j := by
    have hp := n.runs_pairwise L
    rw [hruns, List.pairwise_append, List.pairwise_cons] at hp
    obtain ⟨-, ⟨hfirst, -⟩, -⟩ := hp
    exact hfirst
  obtain ⟨hfit, -⟩ := (Night.isRun_iff hK).1 ((Night.mem_runs hK).1 hmem)
  refine ⟨hmem, hv, fun j hj => ?_, fun j hj hrate => ?_, hfit⟩
  · rcases hcases j hj with hj | rfl | hj
    · exact (hbefore j hj).le
    · exact hv.le
    · exact hafter j hj
  · rcases hcases j hj with hj | rfl | hj
    · exact absurd hrate (hbefore j hj).ne'
    · exact le_rfl
    · exact (hrise j hj).le

/-! ### The allowance of a night (R100, R101) -/

/-- Some of at most 8 user entries, of at most 65535 each, allow at most 524280 together. -/
theorem sum_allowance_filter_le {us : List User} (p : User → Bool) (hlen : us.length ≤ 8)
    (hmax : ∀ u ∈ us, u.allowance ≤ 65535) : ((us.filter p).map (·.allowance)).sum ≤ 8 * 65535 := by
  have hsum : ((us.filter p).map (·.allowance)).sum ≤ ((us.filter p).map (·.allowance)).length • 65535 :=
    List.sum_le_card_nsmul _ _ (List.forall_mem_map.2 fun u hu => hmax u (List.mem_of_mem_filter hu))
  rw [List.length_map, smul_eq_mul] at hsum
  exact hsum.trans (Nat.mul_le_mul_right _ ((List.length_filter_le p us).trans hlen))

/-- Under the ranges of R8 the LNU is at most 65535 × 255 + 8 × 65535. -/
theorem ZoneEntry.lnu_le {e : ZoneEntry} (day weekday : Nat) (hprop : e.properties ≤ 65535) (hper : e.perProperty ≤ 255)
    (hlen : e.users.length ≤ 8) (hmax : ∀ u ∈ e.users, u.allowance ≤ 65535) : e.lnu day weekday ≤ 17235705 :=
  Nat.add_le_add (Nat.mul_le_mul hprop hper) (sum_allowance_filter_le _ hlen hmax)

/-- Settles O45: a condition of a user entry that is absent holds, one that is present is tested, as in `userApplies`. -/
theorem allowanceOfANight : Obligations.AllowanceOfANight := by
  unfold Obligations.AllowanceOfANight
  intro e day weekday
  refine ⟨?_, ZoneEntry.lnu_le day weekday⟩
  rw [ZoneEntry.lnu]
  congr 3
  refine List.filter_congr fun u _ => ?_
  rw [userApplies]
  cases u.weekdays <;> cases u.validUntil <;> rfl

end Sys2Proof.Machine

end

/-! Baselines and verdicts (chapter 07): the test of a result (R115) and the report of BASELINE GET (R129). -/

section

namespace Sys2Proof.Machine

/-! ### The CUSUM and the persistence after a tested excess (R115) -/

/-- A positive S + E − k is the next S, kept at most 2147483647. -/
theorem nextCusum_of_pos {t : Tests} {cusum : Nat} {e : Int} (h : 0 < (cusum : Int) + e - t.slack) :
    (nextCusum t cusum e : Int) = min ((cusum : Int) + e - t.slack) 2147483647 := by
  rw [nextCusum, max_eq_left h.le, Int.toNat_of_nonneg (le_min h.le (by decide))]

/-- S does not fall below 0. -/
theorem nextCusum_of_nonpos {t : Tests} {cusum : Nat} {e : Int} (h : (cusum : Int) + e - t.slack ≤ 0) :
    nextCusum t cusum e = 0 := by
  rw [nextCusum, max_eq_right h]
  rfl

/-- At or above T, p rises by one, and a p that would exceed P becomes P. -/
theorem nextPersistence_of_burst_le {t : Tests} {p : Nat} {e : Int} (h : (t.burst : Int) ≤ e) :
    nextPersistence t p e = if t.persist < p + 1 then t.persist else p + 1 := by
  rw [nextPersistence, if_pos h]
  split
  case isTrue hover => exact min_eq_right hover.le
  case isFalse hwithin => exact min_eq_left (not_lt.1 hwithin)

/-- Below T, p becomes 0. -/
theorem nextPersistence_of_lt_burst {t : Tests} {p : Nat} {e : Int} (h : e < (t.burst : Int)) : nextPersistence t p e = 0 :=
  if_neg (not_le.2 h)

/-! ### The test of a result (R111, R114, R115) -/

/-- In NORMAL and in SUSPECT a result that is not DISTURBED is tested. -/
theorem Verdict.handle_eq_test {v : Verdict} (t : Tests) {r : ResultRecord} (hv : v.state = .normal ∨ v.state = .suspect)
    (hr : r.quality ≠ .disturbed) : v.handle t r = v.test t r := by
  have hjudge : v.judgeNight t r = v.test t r := if_neg hr
  obtain hv | hv := hv <;> simp only [Verdict.handle, hv, hjudge]

@[simp] theorem Verdict.test_cusum (t : Tests) (v : Verdict) (r : ResultRecord) :
    (v.test t r).cusum = nextCusum t v.cusum (excessOver r.nnf v.baseline) := rfl

@[simp] theorem Verdict.test_persistence (t : Tests) (v : Verdict) (r : ResultRecord) :
    (v.test t r).persistence = nextPersistence t v.persistence (excessOver r.nnf v.baseline) := rfl

/-- The last result carries the excess over the baseline the test began with, not the one it leaves. -/
@[simp] theorem Verdict.test_last_excess (t : Tests) (v : Verdict) (r : ResultRecord) :
    (v.test t r).last.map (fun x => x.excess) = some (excessOver r.nnf v.baseline) := rfl

/-- Settles O48: the result is tested, and the test computes E, S and p by R115's two functions. -/
theorem testComputesSAndP : Obligations.TestComputesSAndP := by
  unfold Obligations.TestComputesSAndP
  intro t v r hv hr
  rw [Verdict.handle_eq_test t hv hr]
  dsimp only
  rw [Verdict.test_last_excess, Verdict.test_cusum, Verdict.test_persistence]
  exact ⟨rfl, nextCusum_of_pos, nextCusum_of_nonpos, nextPersistence_of_burst_le, nextPersistence_of_lt_burst⟩

/-! ### BASELINE GET (R129) -/

theorem zoneOk_eq_true {z : Nat} (h1 : 1 ≤ z) (h2 : z ≤ 256) : zoneOk z = true := by
  simp [zoneOk, between, h1, h2]

/-- BASELINE GET with a zone number in its range is carried out by R129. -/
theorem runRequest_baselineGet {z : Nat} (s : State) (h1 : 1 ≤ z) (h2 : z ≤ 256) :
    s.runRequest (.baselineGet z) = s.runBaselineGet z :=
  runRequest_inRange (zoneOk_eq_true h1 h2)

theorem runBaselineGet_undefined {s : State} {z : Nat} (h : s.entry z = none) :
    s.runBaselineGet z = .refuse .noSuch s :=
  onZone_none h _

theorem runBaselineGet_defined {s : State} {z : Nat} {e : ZoneEntry} (h : s.entry z = some e) :
    s.runBaselineGet z = .ok (s.zone z).verdict.fields s :=
  onZone_some h _

/-- Settles O52: in either case the state the request is executed in is the state that is answered. -/
theorem baselineGetReports : Obligations.BaselineGetReports := by
  unfold Obligations.BaselineGetReports
  intro tag z s hs h1 h2
  refine ⟨fun hundefined => exec_done rfl hs ?_, fun hdefined => ?_⟩
  · rw [runRequest_baselineGet _ h1 h2]
    exact runBaselineGet_undefined hundefined
  · obtain ⟨e, he⟩ := Option.isSome_iff_exists.1 hdefined
    refine exec_done rfl hs ?_
    rw [runRequest_baselineGet _ h1 h2]
    exact runBaselineGet_defined he

end Sys2Proof.Machine

end

/-! The invariants of the part (R19, R36, R50, R74, R75, R110, R132, R153, log 11): one relation, `Upholds`, that every act
of the part but a reset keeps, proved once for each operation in the order of the model; from it each invariant is read off. -/

section

namespace Sys2Proof.Machine

/-! ### What an act upholds -/

/-- `t` meets every invariant of the tables and queues that `s` meets. -/
structure Maintains (s t : State) : Prop where
  chains : s.chainsOrdered → t.chainsOrdered
  intake : s.intakeBounded → t.intakeBounded
  notices : s.noticesDistinct → t.noticesDistinct
  rejects : s.rejectsBounded → t.rejectsBounded
  waiting : s.waitingOnlyInAlarm → t.waitingOnlyInAlarm
  canonical : s.canonical → t.canonical
  pool : s.canonical → s.poolBounded → t.poolBounded
  reserve : s.canonical → s.reserveKept → t.reserveKept

/-- The clock of `t` goes on from a clock in RUN (R19). -/
def Clock.GoesOn (c d : Clock) : Prop := c.running = true → c.time ≤ d.time ∧ d.running = true ∧ d.epoch = c.epoch

/-- What every act but a reset does to the invariants. -/
structure Upholds (s t : State) : Prop extends Maintains s t where
  clock : s.clock.GoesOn t.clock

theorem Clock.GoesOn.refl (c : Clock) : c.GoesOn c := fun h => ⟨le_rfl, h, rfl⟩

theorem Maintains.trans {s t u : State} (h : Maintains s t) (k : Maintains t u) : Maintains s u where
  chains := k.chains ∘ h.chains
  intake := k.intake ∘ h.intake
  notices := k.notices ∘ h.notices
  rejects := k.rejects ∘ h.rejects
  waiting := k.waiting ∘ h.waiting
  canonical := k.canonical ∘ h.canonical
  pool hc hp := k.pool (h.canonical hc) (h.pool hc hp)
  reserve hc hr := k.reserve (h.canonical hc) (h.reserve hc hr)

namespace Upholds

theorem refl (s : State) : Upholds s s := ⟨⟨id, id, id, id, id, id, fun _ => id, fun _ => id⟩, Clock.GoesOn.refl _⟩

theorem trans {s t u : State} (h : Upholds s t) (k : Upholds t u) : Upholds s u where
  toMaintains := h.toMaintains.trans k.toMaintains
  clock hr := by
    obtain ⟨ht, hrun, he⟩ := h.clock hr
    obtain ⟨ht', hrun', he'⟩ := k.clock hrun
    exact ⟨ht.trans ht', hrun', he'.trans he⟩

/-- An act that leaves the tables and queues as they are, and the reject queue no longer than it may be. -/
theorem ofTables {s t : State} (hz : t.zones = s.zones) (hm : t.meters = s.meters) (hc : t.clock = s.clock)
    (hs : t.settings = s.settings) (hch : t.channels = s.channels) (hi : t.intake = s.intake) (hn : t.notices = s.notices)
    (hr : s.link.rejects.length ≤ 4 → t.link.rejects.length ≤ 4) : Upholds s t where
  chains h := by simpa only [State.chainsOrdered, hm] using h
  intake h := by simpa only [State.intakeBounded, hi] using h
  notices h := by simpa only [State.noticesDistinct, hn] using h
  rejects := hr
  waiting h := by simpa only [State.waitingOnlyInAlarm, hz] using h
  canonical h := by simpa only [State.canonical, hz, hm, hch] using h
  pool _ h := by simpa only [State.poolBounded, State.regularHeld, State.surveyHeld, hz] using h
  reserve _ h := by simpa only [State.reserveKept, State.regularHeld, hz, hs, hc] using h
  clock := hc ▸ Clock.GoesOn.refl _

/-- An act that leaves the tables, the queues and the link as they are. -/
theorem ofRest {s t : State} (hz : t.zones = s.zones) (hm : t.meters = s.meters) (hc : t.clock = s.clock)
    (hs : t.settings = s.settings) (hch : t.channels = s.channels) (hi : t.intake = s.intake) (hn : t.notices = s.notices)
    (hl : t.link = s.link) : Upholds s t := ofTables hz hm hc hs hch hi hn (by rw [hl]; exact id)

/-- A condition on which an act depends. -/
theorem ite {s t u : State} {c : Prop} [Decidable c] (ht : c → Upholds s t) (hu : ¬ c → Upholds s u) :
    Upholds s (if c then t else u) := by
  split
  case isTrue h => exact ht h
  case isFalse h => exact hu h

end Upholds

/-! ### The tables -/

/-- A waiting result is present only in ALARM (R110). -/
def Verdict.Holds (v : Verdict) : Prop := v.waiting.isSome = true → v.state = .alarm

/-- A zone number's record rewritten: its verdict record keeps R110, its nights hold no more slot records. -/
structure Zone.Keeps (v w : Zone) : Prop where
  verdict : v.verdict.Holds → w.verdict.Holds
  night0 : heldBy w.night0 ≤ heldBy v.night0
  night1 : heldBy w.night1 ≤ heldBy v.night1
  night2 : heldBy w.night2 ≤ heldBy v.night2

theorem Zone.Keeps.refl (v : Zone) : v.Keeps v := ⟨id, le_rfl, le_rfl, le_rfl⟩

/-- A zone number that is read is listed, or in its initial state. -/
theorem zone_mem_or_initial (s : State) (z : Nat) : (∃ p ∈ s.zones, p.2 = s.zone z) ∨ s.zone z = Zone.initial := by
  unfold State.zone
  cases h : Table.find z s.zones with
  | none => exact .inr rfl
  | some v => exact .inl ⟨_, mem_of_find h, rfl⟩

theorem zone_verdict_holds {s : State} (h : s.waitingOnlyInAlarm) (z : Nat) : (s.zone z).verdict.Holds := by
  obtain ⟨p, hp, hz⟩ | hz := zone_mem_or_initial s z
  · exact hz ▸ h p hp
  · rw [hz]
    intro hw
    cases hw

/-- The zones rewritten where the nights hold no more slot records. -/
theorem upholds_zones {s : State} {zs : List (Nat × Zone)}
    (hwf : Table.wf (some Zone.initial) s.zones = true → Table.wf (some Zone.initial) zs = true)
    (hv : s.waitingOnlyInAlarm → ∀ p ∈ zs, p.2.verdict.Holds)
    (hreg : s.canonical → State.regularHeld { s with zones := zs } ≤ s.regularHeld)
    (hsur : s.canonical → State.surveyHeld { s with zones := zs } ≤ s.surveyHeld) : Upholds s { s with zones := zs } where
  chains := id
  intake := id
  notices := id
  rejects := id
  waiting := hv
  canonical h := ⟨hwf h.1, h.2⟩
  pool hc h := (Nat.add_le_add (hreg hc) (hsur hc)).trans h
  reserve hc h := ⟨(hreg hc).trans h.1, fun hr => Nat.le_zero.1 ((hreg hc).trans (h.2 hr).le)⟩
  clock := Clock.GoesOn.refl _

theorem setZone_holds {s : State} {z : Nat} {v : Zone} (h : s.waitingOnlyInAlarm) (hv : v.verdict.Holds) :
    (s.setZone z v).waitingOnlyInAlarm := by
  intro p hp
  unfold State.setZone at hp
  simp only at hp
  split at hp
  · exact h p (List.mem_of_mem_filter hp)
  · obtain rfl | hp := mem_put hp
    · exact hv
    · exact h p hp

theorem setZone_upholds {s : State} {z : Nat} {v : Zone} (h : (s.zone z).Keeps v) : Upholds s (s.setZone z v) := by
  refine upholds_zones (setZone_wf s z v) (fun hs => ?_) (fun hc => ?_) (fun hc => ?_)
  · exact setZone_holds hs (h.verdict (zone_verdict_holds hs z))
  · have heq := regularHeld_setZone s z v hc.1
    have h0 := h.night0
    have h1 := h.night1
    simp only [State.setZone] at heq ⊢
    omega
  · have heq := surveyHeld_setZone s z v hc.1
    have h2 := h.night2
    simp only [State.setZone] at heq ⊢
    omega

theorem heldSum_map_le {f : Zone → Zone} {g : Zone → Nat} (hf : ∀ v, g (f v) ≤ g v) (t : List (Nat × Zone)) :
    zoneSum g (t.map fun p => (p.1, f p.2)) ≤ zoneSum g t := by
  unfold zoneSum
  rw [List.map_map]
  exact sum_map_le fun p _ => hf p.2

theorem heldSum_filter_le (g : Zone → Nat) (c : Nat × Zone → Bool) (t : List (Nat × Zone)) :
    zoneSum g (t.filter c) ≤ zoneSum g t :=
  (List.filter_sublist.map _).sum_le_sum fun _ _ => Nat.zero_le _

/-- Every zone number's record rewritten in place, those that became initial dropped. -/
theorem rewriteZones_upholds (s : State) {f : Zone → Zone} (hf : ∀ v : Zone, v.Keeps (f v)) :
    Upholds s { s with zones := (s.zones.map fun p => (p.1, f p.2)).filter fun p => p.2 ≠ Zone.initial } := by
  refine upholds_zones (wf_map_filter _ f _) (fun hs p hp => ?_) (fun _ => ?_) (fun _ => ?_)
  · obtain ⟨q, hq, rfl⟩ := List.mem_map.1 (List.mem_of_mem_filter hp)
    exact (hf q.2).verdict (hs q hq)
  · exact (heldSum_filter_le (fun v => heldBy v.night0 + heldBy v.night1) _ _).trans
      (heldSum_map_le (fun v => Nat.add_le_add (hf v).night0 (hf v).night1) _)
  · exact (heldSum_filter_le (fun v => heldBy v.night2) _ _).trans (heldSum_map_le (fun v => (hf v).night2) _)

theorem setVerdict_upholds {s : State} {z : Nat} {v : Verdict} (h : (s.zone z).verdict.Holds → v.Holds) :
    Upholds s (s.setVerdict z v) := setZone_upholds ⟨h, le_rfl, le_rfl, le_rfl⟩

theorem setEntry_upholds (s : State) (z : Nat) (e : Option ZoneEntry) : Upholds s (s.setEntry z e) :=
  setZone_upholds ⟨id, le_rfl, le_rfl, le_rfl⟩

/-- A night's record replaced by one that holds no more slot records. -/
theorem setNight_upholds {s : State} {r : NightRef} {n : Option Night} (h : heldBy n ≤ heldBy (s.night r)) :
    Upholds s (s.setNight r n) := by
  obtain ⟨z, d⟩ := r
  refine setZone_upholds ?_
  match d with
  | 0 => exact ⟨id, h, le_rfl, le_rfl⟩
  | 1 => exact ⟨id, le_rfl, h, le_rfl⟩
  | 2 => exact ⟨id, le_rfl, le_rfl, h⟩
  | _ + 3 => exact .refl _

/-- A chain as R50 has it. -/
def ChainOrdered (chain : List Reading) : Prop := chain.Pairwise (fun a b => a.time < b.time) ∧ chain.length ≤ 8

theorem chainOrdered_nil : ChainOrdered [] := ⟨.nil, by simp⟩

theorem meter_chainOrdered {s : State} (h : s.chainsOrdered) {i : Nat} {m : Meter} (hm : s.meter i = some m) :
    ChainOrdered m.chain := h _ (mem_of_find hm)

/-- The meters rewritten where every chain stays ordered. -/
theorem upholds_meters {s : State} {ms : List (Nat × Meter)}
    (hwf : Table.wf (none : Option Meter) s.meters = true → Table.wf (none : Option Meter) ms = true)
    (hch : s.chainsOrdered → ∀ p ∈ ms, ChainOrdered p.2.chain) : Upholds s { s with meters := ms } where
  chains := hch
  intake := id
  notices := id
  rejects := id
  waiting := id
  canonical h := ⟨h.1, hwf h.2.1, h.2.2⟩
  pool _ := id
  reserve _ := id
  clock := Clock.GoesOn.refl _

theorem putMeter_upholds {s : State} {i : Nat} {m : Meter} (h : s.chainsOrdered → ChainOrdered m.chain) :
    Upholds s (s.putMeter i m) :=
  upholds_meters (putMeter_wf s i m) fun hs p hp => by
    obtain rfl | hp := mem_put hp
    · exact h hs
    · exact hs p hp

theorem delMeter_upholds (s : State) (i : Nat) : Upholds s (s.delMeter i) :=
  upholds_meters (delMeter_wf s i) fun hs p hp => hs p (List.mem_of_mem_filter hp)

/-- The channels rewritten in canonical form. -/
theorem upholds_channels {s : State} {cs : List (Nat × Channel)}
    (hwf : Table.wf (some Channel.initial) s.channels = true → Table.wf (some Channel.initial) cs = true) :
    Upholds s { s with channels := cs } where
  chains := id
  intake := id
  notices := id
  rejects := id
  waiting := id
  canonical h := ⟨h.1, h.2.1, hwf h.2.2⟩
  pool _ := id
  reserve _ := id
  clock := Clock.GoesOn.refl _

theorem setChannel_upholds (s : State) (c : Nat) (v : Channel) : Upholds s (s.setChannel c v) :=
  upholds_channels (setChannel_wf s c v)

/-- The intake rewritten within its bounds. -/
theorem upholds_intake {s : State} {i : Intake} (h : s.intakeBounded → State.intakeBounded { s with intake := i }) :
    Upholds s { s with intake := i } := ⟨⟨id, h, id, id, id, id, fun _ => id, fun _ => id⟩, Clock.GoesOn.refl _⟩

/-- Waiting readings removed. -/
theorem thinIntake_upholds {s : State} {q : List Waiting} (h : q.Sublist s.intake.queue) :
    Upholds s { s with intake := { s.intake with queue := q } } :=
  upholds_intake fun ⟨hhost, hch, hord, hnext⟩ =>
    ⟨(h.filter _).length_le.trans hhost, fun c => (h.filter _).length_le.trans (hch c), hord.sublist h,
      fun w hw => hnext w (h.subset hw)⟩

theorem dequeueWhere_upholds (s : State) (p : Waiting → Bool) : Upholds s (s.dequeueWhere p) :=
  thinIntake_upholds List.filter_sublist

/-- A reading entered where its place is free (R35). -/
theorem enqueue_upholds {s : State} {i : Nat} {r : Reading} {o : Origin}
    (hhost : o = .host → s.hostWaiting < 56)
    (hchan : ∀ c, o = .channel c → s.intake.queue.filter (fun w => w.origin = .channel c) = []) : Upholds s (s.enqueue i r o) := by
  refine upholds_intake fun ⟨hh, hc, hord, hnext⟩ => ⟨?_, fun c => ?_, ?_, fun w hw => ?_⟩
  · rw [List.filter_append, List.length_append]
    by_cases ho : o = .host
    · have hlt := hhost ho
      unfold State.hostWaiting at hlt
      simp [ho]
      omega
    · simpa [ho] using hh
  · rw [List.filter_append, List.length_append]
    by_cases ho : o = .channel c
    · rw [hchan c ho]
      simp [ho]
    · simpa [ho] using hc c
  · rw [List.pairwise_append]
    exact ⟨hord, List.pairwise_singleton _ _, fun a ha b hb => by rw [List.mem_singleton.1 hb]; exact hnext a ha⟩
  · obtain hw | hw := List.mem_append.1 hw
    · exact (hnext w hw).trans (Nat.lt_succ_self _)
    · rw [List.mem_singleton.1 hw]
      exact Nat.lt_succ_self _

/-- The system entry and the notice queue rewritten. -/
theorem upholds_notices {s : State} {n : Notices} (h : s.notices.queue.Nodup → n.queue.Nodup) :
    Upholds s { s with notices := n } := ⟨⟨id, id, h, id, id, id, fun _ => id, fun _ => id⟩, Clock.GoesOn.refl _⟩

/-- The settings rewritten, the survey reserve kept in RUN (R30). -/
theorem upholds_settings {s : State} {x : Settings} (h : s.clock.running = true → x.reserve = s.settings.reserve) :
    Upholds s { s with settings := x } := by
  refine ⟨⟨id, id, id, id, id, id, fun _ => id, fun _ ⟨hreg, hcold⟩ => ⟨?_, hcold⟩⟩, Clock.GoesOn.refl _⟩
  cases hrun : s.clock.running with
  | false => exact (hcold hrun).trans_le (Nat.zero_le _)
  | true => exact (h hrun).symm ▸ hreg

/-- The clock rewritten: it goes on in RUN, and does not return to COLD. -/
theorem upholds_clock {s : State} {c : Clock} (h : s.clock.GoesOn c) (hrun : c.running = false → s.clock.running = false) :
    Upholds s { s with clock := c } :=
  ⟨⟨id, id, id, id, id, id, fun _ => id, fun _ hr => ⟨hr.1, fun hc => hr.2 (hrun hc)⟩⟩, h⟩

/-! ### Flags and records (R66, R87, R131 to R135) -/

theorem joinQueue_upholds (s : State) (e : Nat) : Upholds s (s.joinQueue e) := by
  unfold State.joinQueue
  split
  · exact .refl s
  · rename_i h
    refine upholds_notices fun hn => hn.append (List.nodup_singleton e) ?_
    simp only [Bool.or_eq_true, not_or, State.queued, List.contains_iff_mem] at h
    simpa using h.1

theorem raise_upholds (s : State) (z : Nat) (f : ZoneFlag) : Upholds s (s.raise z f) := by
  have h : Upholds s (s.setZone z { s.zone z with flags := (s.zone z).flags.set f }) :=
    setZone_upholds ⟨id, le_rfl, le_rfl, le_rfl⟩
  unfold State.raise
  split
  · exact .refl s
  · exact h.trans (joinQueue_upholds _ z)

theorem raiseIf_upholds (s : State) (c : Bool) (z : Nat) (f : ZoneFlag) : Upholds s (s.raiseIf c z f) :=
  .ite (fun _ => raise_upholds s z f) fun _ => .refl s

theorem raiseMeter_upholds (s : State) : Upholds s s.raiseMeter :=
  have h : Upholds s { s with notices := { s.notices with meter := true } } := upholds_notices id
  .ite (fun _ => .refl s) fun _ => h.trans (joinQueue_upholds _ 0)

theorem raisePool_upholds (s : State) : Upholds s s.raisePool :=
  have h : Upholds s { s with notices := { s.notices with pool := true } } := upholds_notices id
  .ite (fun _ => .refl s) fun _ => h.trans (joinQueue_upholds _ 0)

theorem setBlocked_upholds (s : State) (e : Nat) (b : Bool) : Upholds s (s.setBlocked e b) :=
  .ite (fun _ => upholds_notices id) fun _ => setZone_upholds ⟨id, le_rfl, le_rfl, le_rfl⟩

/-- An entry leaves the notice queue. -/
theorem leaveQueue_upholds (s : State) (e : Nat) :
    Upholds s { s with notices := { s.notices with queue := s.notices.queue.filter (· ≠ e) } } :=
  upholds_notices fun h => h.filter _

theorem clearFlags_upholds (s : State) (e f : Nat) : Upholds s (s.clearFlags e f) :=
  .ite (fun _ => upholds_notices id) fun _ => setZone_upholds ⟨id, le_rfl, le_rfl, le_rfl⟩

theorem retireEntry_upholds (s : State) (e : Nat) : Upholds s (s.retireEntry e) :=
  .ite (fun _ => (leaveQueue_upholds s e).trans (setBlocked_upholds _ e false)) fun _ => .refl s

theorem acknowledge_upholds (s : State) (e f : Nat) : Upholds s (s.acknowledge e f) :=
  (clearFlags_upholds s e f).trans (retireEntry_upholds _ e)

theorem buildNotice_upholds (s : State) (e : Nat) : Upholds s (s.buildNotice e) :=
  .ite (fun _ => (leaveQueue_upholds s e).trans (setBlocked_upholds _ e true)) fun _ => leaveQueue_upholds s e

theorem unblockAll_upholds (s : State) : Upholds s s.unblockAll :=
  (rewriteZones_upholds s (f := fun v => { v with blocked := false }) fun _ => ⟨id, le_rfl, le_rfl, le_rfl⟩).trans
    (upholds_notices id)

theorem recordSkip_upholds (s : State) (z : Nat) (c : SkipCause) (d : Nat) : Upholds s (s.recordSkip z c d) :=
  have h := (setZone_upholds (s := s) (z := z)
    (v := { s.zone z with skip := some (nextSkip (s.zone z).skip (s.zone z).flags.skip c d) })
    ⟨id, le_rfl, le_rfl, le_rfl⟩).trans (raise_upholds _ z .skip)
  .ite (fun _ => h.trans (raisePool_upholds _)) fun _ => h

theorem recordException_upholds (s : State) (i : Nat) (c : ExceptionCode) (t : Nat) : Upholds s (s.recordException i c t) := by
  unfold State.recordException
  split
  · exact .refl s
  · rename_i m hm
    have h : Upholds s (s.putMeter i { m with exceptions := some (nextException m.exceptions c t) }) :=
      putMeter_upholds fun hs => (meter_chainOrdered hs hm : ChainOrdered m.chain)
    exact .ite (fun _ => h.trans (raiseMeter_upholds _)) fun _ => h

theorem recordExceptionIf_upholds (s : State) (b : Bool) (i : Nat) (c : ExceptionCode) (t : Nat) :
    Upholds s (s.recordExceptionIf b i c t) :=
  .ite (fun _ => recordException_upholds s i c t) fun _ => .refl s

theorem recordExceptions_upholds (s : State) (i : Nat) (cs : List ExceptionCode) (t : Nat) :
    Upholds s (s.recordExceptions i cs t) := by
  unfold State.recordExceptions
  induction cs generalizing s with
  | nil => exact .refl s
  | cons c rest ih => exact (recordException_upholds s i c t).trans (ih _)

theorem emptyExceptions_upholds (s : State) (i : Nat) : Upholds s (s.emptyExceptions i) := by
  unfold State.emptyExceptions
  split
  · exact .refl s
  · rename_i m hm
    exact putMeter_upholds fun hs => (meter_chainOrdered hs hm : ChainOrdered m.chain)

/-! ### Nights (R72 to R90) -/

/-- A choice consumes from the world's schedule. -/
theorem choose_upholds (n : Nat) (s : State) : Upholds s (choose n s).2 := by
  obtain ⟨w, c, h⟩ := choose_eq n s
  rw [h]
  exact .ofRest rfl rfl rfl rfl rfl rfl rfl rfl

/-- The Chain Unit, the Assessor and the stream rewritten. -/
theorem Upholds.units {s t : State} (h : { s with chain := t.chain, assess := t.assess, stream := t.stream } = t) :
    Upholds s t := by
  rw [← h]
  exact .ofRest rfl rfl rfl rfl rfl rfl rfl rfl

theorem releaseNight_upholds (s : State) (r : NightRef) : Upholds s (s.releaseNight r) :=
  (setNight_upholds (n := none) (Nat.zero_le _)).trans (.units rfl)

/-- A night's record replaced by one with the same slot records. -/
theorem setNight_same_upholds {s : State} {r : NightRef} {n : Night} (m : Night) (hn : s.night r = some n)
    (h : m.slots.length = n.slots.length) : Upholds s (s.setNight r (some m)) :=
  setNight_upholds (by rw [hn]; exact h.le)

theorem freeze_upholds (s : State) (r : NightRef) : Upholds s (s.freeze r) := by
  cases h : s.night r with
  | none => simp only [State.freeze, h]; exact .refl s
  | some n => rw [freeze_eq h]; exact (setNight_same_upholds n.queued h rfl).trans (.units rfl)

theorem enterDraining_upholds (s : State) (r : NightRef) : Upholds s (s.enterDraining r) := by
  unfold State.enterDraining
  split
  · exact .refl s
  · rename_i n hn
    split
    · exact setNight_same_upholds _ hn rfl
    · exact freeze_upholds s r

theorem settleDrainsLoop_upholds (k : Nat) (s : State) : Upholds s (settleDrainsLoop k s) := by
  induction k generalizing s with
  | zero => exact .refl s
  | succ k ih =>
    unfold settleDrainsLoop
    split
    · exact .refl s
    · exact ((choose_upholds _ s).trans (freeze_upholds _ _)).trans (ih _)

theorem endApplication_upholds (s : State) : Upholds s s.endApplication := by
  unfold State.endApplication
  split
  · exact .ite (fun _ => .units rfl) fun _ => .refl s
  · exact .refl s

theorem quiesce_upholds (s : State) : Upholds s s.quiesce :=
  (endApplication_upholds s).trans (settleDrainsLoop_upholds _ _)

/-- The slot records of an opening fit: into the pool less the reserve for a regular night in a free descriptor, into the
free slot records for every night (R75, R77). -/
def State.Fits (s : State) (r : NightRef) (slots : Nat) : Prop :=
  r.desc < 3 ∧ slots ≤ s.freeSlots ∧ (r.desc < 2 → s.regularHeld + slots ≤ 8192 - s.settings.reserve)

/-- A night opened in RUN where its slot records fit (R74, R75). -/
theorem openNight_upholds {s : State} {r : NightRef} {n : Night} (hrun : s.clock.running = true) (h : s.Fits r n.slotCount) :
    Upholds s (s.openNight r n) := by
  obtain ⟨hd, hfree, hreg⟩ := h
  have hheld (hc : s.canonical) := held_setNight s r (some (s.openedNight r.zone n)) hd hc.1
  have hlen : heldBy (some (s.openedNight r.zone n)) = n.slotCount := openedNight_length s r.zone n
  unfold State.openNight
  refine Upholds.trans (t := s.setNight r (some (s.openedNight r.zone n))) ⟨⟨id, id, id, id, fun hs => ?_, fun hc => ?_,
    fun hc hp => ?_, fun hc hr => ⟨?_, fun hcold => ?_⟩⟩, Clock.GoesOn.refl _⟩ (.units rfl)
  · refine setZone_holds hs ?_
    rw [setNight_verdict]
    exact zone_verdict_holds hs _
  · exact ⟨setZone_wf s _ _ hc.1, hc.2⟩
  · obtain ⟨h1, h2⟩ := hheld hc
    rw [hlen] at h1 h2
    unfold State.poolBounded at hp ⊢
    have hfree' : n.slotCount ≤ 8192 - (s.regularHeld + s.surveyHeld) := hfree
    have hone : (if r.desc < 2 then n.slotCount else 0) + (if r.desc = 2 then n.slotCount else 0) ≤ n.slotCount := by
      split <;> split <;> omega
    omega
  · obtain ⟨h1, -⟩ := hheld hc
    rw [hlen] at h1
    have h3 := hr.1
    simp only [setNight_settings]
    by_cases h2 : r.desc < 2
    · have := hreg h2
      simp only [h2, if_true] at h1
      omega
    · simp only [h2, if_false] at h1
      omega
  · rw [setNight_clock, hrun] at hcold
    cases hcold

theorem freeRegular_lt {v : Zone} {d : Nat} (h : v.freeRegular = some d) : d < 2 := by
  unfold Zone.freeRegular at h
  split at h
  · cases h; decide
  · split at h
    · cases h; decide
    · cases h

theorem regularStart_upholds {s : State} (hrun : s.clock.running = true) (z w t1 : Nat) :
    Upholds s (s.regularStart z w t1) := by
  unfold State.regularStart
  split
  · exact .refl s
  · split
    · exact .refl s
    · refine .ite (fun _ => .refl s) fun _ => .ite (fun _ => recordSkip_upholds _ _ _ _) fun _ => ?_
      split
      · exact recordSkip_upholds _ _ _ _
      · rename_i d hd
        refine .ite (fun _ => recordSkip_upholds _ _ _ _) fun hfit => openNight_upholds hrun ?_
        have h2 := freeRegular_lt hd
        simp only [State.poolRefuses, Bool.or_eq_true, decide_eq_true_eq, not_or, not_lt] at hfit
        exact ⟨h2.trans (by decide), hfit.2, fun _ => hfit.1⟩

theorem surveyStart_upholds {s : State} (hrun : s.clock.running = true) (z t1 : Nat) : Upholds s (s.surveyStart z t1) := by
  have hskip (c : SkipCause) (d : Nat) := (releaseNight_upholds s ⟨z, 2⟩).trans (recordSkip_upholds _ z c d)
  unfold State.surveyStart
  dsimp only
  split
  · exact .refl s
  · refine .ite (fun _ => .refl s) fun _ => .ite (fun _ => hskip _ _) fun _ => .ite (fun _ => hskip _ _) fun hfit => ?_
    exact openNight_upholds hrun ⟨Nat.lt_succ_self 2, not_lt.1 hfit, fun h => absurd h (lt_irrefl 2)⟩

theorem windowEnds_upholds (s : State) (r : NightRef) : Upholds s (s.windowEnds r) := by
  unfold State.windowEnds
  split
  · exact .refl s
  · rename_i n hn
    exact .ite (fun _ => .refl s) fun _ => .ite (fun _ => enterDraining_upholds s r) fun _ => setNight_same_upholds _ hn rfl

theorem deadlinePasses_upholds (s : State) (r : NightRef) : Upholds s (s.deadlinePasses r) := by
  unfold State.deadlinePasses
  split
  · exact .refl s
  · exact .ite (fun _ => enterDraining_upholds s r) fun _ => .refl s

theorem earlyCompletion_upholds (s : State) (r : NightRef) : Upholds s (s.earlyCompletion r) := by
  unfold State.earlyCompletion
  split
  · exact .refl s
  · exact .ite (fun _ => enterDraining_upholds s r) fun _ => .refl s

/-- A defect received leaves the slot records a descriptor holds. -/
theorem disturbNight_keeps (L : Nat) (p : Span) (v : Zone) (d : Nat) : v.Keeps (v.disturbNight L p d) := by
  unfold Zone.disturbNight
  split
  · exact .refl v
  · rename_i n hn
    split
    · match d, hn with
      | 0, hn => exact ⟨id, (by rw [show v.night0 = some n from hn]; exact (receive_length _ n).le), le_rfl, le_rfl⟩
      | 1, hn => exact ⟨id, le_rfl, (by rw [show v.night1 = some n from hn]; exact (receive_length _ n).le), le_rfl⟩
      | 2, hn => exact ⟨id, le_rfl, le_rfl, (by rw [show v.night2 = some n from hn]; exact (receive_length _ n).le)⟩
      | _ + 3, hn => exact .refl v
    · exact .refl v

theorem Zone.Keeps.trans {v w x : Zone} (h : v.Keeps w) (k : w.Keeps x) : v.Keeps x :=
  ⟨k.verdict ∘ h.verdict, k.night0.trans h.night0, k.night1.trans h.night1, k.night2.trans h.night2⟩

theorem widenSettle_upholds (s : State) (z : Nat) (p : Span) : Upholds s (s.widenSettle z p) := by
  unfold State.widenSettle
  split
  · exact .refl s
  · rename_i e _
    have h : (s.zone z).Keeps { s.zone z with entry := some { e with settle := some (Span.hull e.settle p) } } :=
      ⟨id, le_rfl, le_rfl, le_rfl⟩
    exact setZone_upholds (((h.trans (disturbNight_keeps _ _ _ 0)).trans (disturbNight_keeps _ _ _ 1)).trans
      (disturbNight_keeps _ _ _ 2))

theorem stopNight_upholds (s : State) (r : NightRef) : Upholds s (s.stopNight r) := by
  unfold State.stopNight
  split
  · exact .refl s
  · exact (releaseNight_upholds s r).trans (recordSkip_upholds _ _ _ _)

theorem stopNightsLoop_upholds (k z : Nat) (s : State) : Upholds s (stopNightsLoop k z s) := by
  induction k generalizing s with
  | zero => exact .refl s
  | succ k ih =>
    unfold stopNightsLoop
    split
    · exact .refl s
    · exact ((choose_upholds _ s).trans (stopNight_upholds _ _)).trans (ih _)

end Sys2Proof.Machine

end

/-! Verdicts, assessments, the Chain Unit, readings and clock advances uphold the invariants (`Upholds`). -/

section

namespace Sys2Proof.Machine

/-! ### Verdicts and assessments (R103 to R130) -/

/-- Outside ALARM nothing waits. -/
theorem Verdict.Holds.waiting_none {v : Verdict} (h : v.Holds) (hs : v.state ≠ .alarm) : v.waiting = none :=
  Option.not_isSome_iff_eq_none.1 fun hw => hs (h hw)

theorem Verdict.holds_of_none {v : Verdict} (h : v.waiting = none) : v.Holds := fun hw => by simp [h] at hw

theorem Verdict.learn_waiting (t : Tests) (v : Verdict) (r : ResultRecord) : (v.learn t r).waiting = v.waiting := by
  unfold Verdict.learn Verdict.record
  dsimp only
  split
  · split <;> rfl
  · rfl

theorem Verdict.judgeNight_waiting (t : Tests) (v : Verdict) (r : ResultRecord) : (v.judgeNight t r).waiting = v.waiting := by
  unfold Verdict.judgeNight
  split <;> rfl

/-- Handling a result keeps R110: only ALARM takes a result to wait. -/
theorem Verdict.handle_holds (t : Tests) {v : Verdict} (r : ResultRecord) (h : v.Holds) : (v.handle t r).Holds := by
  have hnone (hs : v.state ≠ .alarm) := h.waiting_none hs
  cases hs : v.state <;> simp only [Verdict.handle, hs]
  case learning => exact holds_of_none ((v.learn_waiting t r).trans (hnone (by simp [hs])))
  case normal => exact holds_of_none ((v.judgeNight_waiting t r).trans (hnone (by simp [hs])))
  case suspect => exact holds_of_none ((v.judgeNight_waiting t r).trans (hnone (by simp [hs])))
  case alarm =>
    split
    · exact fun _ => rfl
    · exact h
  case repair => exact holds_of_none (hnone (by simp [hs]))

theorem Verdict.handleSurvey_holds (t : Tests) {v : Verdict} (r : ResultRecord) (h : v.Holds) : (v.handleSurvey t r).Holds := by
  unfold Verdict.handleSurvey
  dsimp only
  split <;> exact h

/-- A disposition takes the waiting result out before it handles it. -/
theorem Verdict.releaseWaiting_holds (t : Tests) (v : Verdict) : (v.releaseWaiting t).Holds := by
  unfold Verdict.releaseWaiting
  split
  · exact holds_of_none ‹_›
  · exact Verdict.handle_holds t _ (holds_of_none rfl)

theorem handleResult_upholds (s : State) (r : ResultRecord) : Upholds s (s.handleResult r) := by
  have hsurvey : Upholds s (s.setVerdict r.zone ((s.zone r.zone).verdict.handleSurvey (s.tests r.zone) r)) :=
    setVerdict_upholds (Verdict.handleSurvey_holds _ r)
  have hresult : Upholds s (s.setVerdict r.zone ((s.zone r.zone).verdict.handle (s.tests r.zone) r)) :=
    setVerdict_upholds (Verdict.handle_holds _ r)
  unfold State.handleResult
  dsimp only
  split
  · exact hsurvey.trans (raise_upholds _ _ _)
  · split
    · exact recordSkip_upholds _ _ _ _
    · exact (hresult.trans (raise_upholds _ _ _)).trans (raiseIf_upholds _ _ _ _)

theorem dispose_upholds (s : State) (z : Nat) (v : Verdict) : Upholds s (s.dispose z v) :=
  have h : Upholds s (s.setVerdict z (v.releaseWaiting (s.tests z))) := setVerdict_upholds fun _ => v.releaseWaiting_holds _
  (h.trans (raiseIf_upholds _ _ _ _)).trans (raise_upholds _ _ _)

theorem repairDone_upholds {s : State} {z : Nat} (h : (s.zone z).verdict.state = .repair) : Upholds s (s.repairDone z) := by
  have hv : Upholds s (s.setVerdict z (s.zone z).verdict.repaired) :=
    setVerdict_upholds fun hv => Verdict.holds_of_none (hv.waiting_none (by simp [h]))
  have hr := hv.trans (raise_upholds _ z .verdict)
  exact .ite (fun _ => hr.trans (widenSettle_upholds _ _ _)) fun _ => hr

theorem replaceVerdict_upholds {s : State} {z : Nat} {v : Verdict} (h : (s.zone z).verdict.Holds → v.Holds) :
    Upholds s (s.replaceVerdict z v) := (setVerdict_upholds h).trans (raiseIf_upholds _ _ _ _)

theorem beginAssessment_upholds {s : State} {r : NightRef} {n : Night} (h : s.night r = some n) :
    Upholds s (s.beginAssessment r n) := by
  unfold State.beginAssessment
  dsimp only
  split
  · exact ((recordSkip_upholds _ _ _ _).trans (releaseNight_upholds _ _)).trans (quiesce_upholds _)
  · exact (setNight_same_upholds { n with state := .assessing, quality := n.assessedQuality s.slotSeconds } h rfl).trans (.units rfl)

theorem assessorTake_upholds (s : State) : Upholds s s.assessorTake := by
  unfold State.assessorTake
  split
  · rename_i rest _ _
    have h : Upholds s { s with assess := { s.assess with queue := rest } } := .units rfl
    dsimp only
    split
    · exact h
    · exact h.trans (beginAssessment_upholds ‹_›)
  · exact .refl s

theorem completeAssessment_upholds (s : State) : Upholds s s.completeAssessment := by
  unfold State.completeAssessment
  split
  · exact .refl s
  · have h : Upholds s { s with assess := { s.assess with flight := none } } := .units rfl
    dsimp only
    split
    · exact h
    · exact ((h.trans (handleResult_upholds _ _)).trans (releaseNight_upholds _ _)).trans (quiesce_upholds _)

/-! ### The Chain Unit (R40 to R70) -/

theorem takeReading_upholds (s : State) : Upholds s s.takeReading := by
  unfold State.takeReading
  split
  · rename_i w rest _ hq
    split
    · exact .refl s
    · have h : Upholds s { s with intake := { s.intake with queue := rest } } :=
        thinIntake_upholds (hq ▸ List.sublist_cons_self w rest)
      exact h.trans (.units rfl)
  · exact .refl s

/-- A list split by two tests that no element passes both of. -/
theorem length_filter_add_le {α : Type} {p q : α → Bool} (h : ∀ x, p x = true → q x = false) (l : List α) :
    (l.filter p).length + (l.filter q).length ≤ l.length := by
  induction l with
  | nil => simp
  | cons x rest ih =>
    cases hp : p x <;> cases hq : q x <;> simp only [List.filter_cons, hp, hq] <;> simp
    · omega
    · omega
    · omega
    · simp [h x hp] at hq

/-- A reading put between the earlier and the later ones of an ordered chain leaves it ordered (R50, R57). -/
theorem enter_chainOrdered {chain : List Reading} (r : Reading) (h : ChainOrdered chain) (old : Option Segment)
    (new : List Segment) :
    ChainOrdered (enter (chain.filter fun x => x.time < r.time) (chain.filter fun x => r.time < x.time) r old new).chain := by
  obtain ⟨hord, hlen⟩ := h
  have hsub : (chain.filter fun x => x.time < r.time).length + (chain.filter fun x => r.time < x.time).length ≤ chain.length :=
    length_filter_add_le (fun x hx => by simp only [decide_eq_true_eq, decide_eq_false_iff_not] at hx ⊢; omega) chain
  have hpair : ((chain.filter fun x => x.time < r.time) ++ r :: chain.filter fun x => r.time < x.time).Pairwise
      fun a b => a.time < b.time := by
    rw [List.pairwise_append, List.pairwise_cons]
    refine ⟨hord.filter _, ⟨fun b hb => by simpa using (List.mem_filter.1 hb).2, hord.filter _⟩, fun a ha b hb => ?_⟩
    have ha : a.time < r.time := by simpa using (List.mem_filter.1 ha).2
    obtain rfl | hb := List.mem_cons.1 hb
    · exact ha
    · exact ha.trans (by simpa using (List.mem_filter.1 hb).2)
  unfold enter trim
  dsimp only
  split
  · refine ⟨hpair.drop, ?_⟩
    rw [List.length_drop, List.length_append, List.length_cons]
    omega
  · exact ⟨hpair, by omega⟩

/-- A chain decision leaves the chain ordered (R50). -/
theorem decide_chainOrdered (m : Meter) (r : Reading) (h : ChainOrdered m.chain) : ChainOrdered (m.decide r).chain := by
  unfold Meter.decide
  split
  · exact h
  · split
    · split <;> exact h
    · unfold Meter.insert
      split
      · exact enter_chainOrdered r h _ _
      · exact enter_chainOrdered r h _ _
      · split
        · exact enter_chainOrdered r h _ _
        · exact h
      · exact enter_chainOrdered r h _ _

theorem chainDecision_upholds (s : State) : Upholds s s.chainDecision := by
  unfold State.chainDecision
  split
  · exact .refl s
  · exact .refl s
  · rename_i w _
    split
    · exact Upholds.trans (.units rfl) (quiesce_upholds _)
    · rename_i m hm
      have hput : Upholds s (s.putMeter w.meter { m with chain := (m.decide w.reading).chain }) :=
        putMeter_upholds fun hs => decide_chainOrdered m _ (meter_chainOrdered hs hm)
      have h := hput.trans (recordExceptions_upholds _ w.meter (m.decide w.reading).codes w.reading.time)
      dsimp only
      split
      · exact (h.trans (.units rfl)).trans (quiesce_upholds _)
      · exact (h.trans (.units rfl)).trans (quiesce_upholds _)

theorem noteReached_upholds (s : State) (r : NightRef) (b : Bool) : Upholds s (s.noteReached r b) := by
  unfold State.noteReached
  split
  · exact .units rfl
  · exact .refl s

theorem change_length (L meter : Nat) (old : Option Segment) (new : List Segment) (n : Night) :
    (n.change L meter old new).slots.length = n.slots.length := by
  unfold Night.change
  split
  · exact placeAll_length L meter new n
  · rw [placeAll_length, withdraw_length]

theorem receiveAll_length (ds : List Quality) (n : Night) : (n.receiveAll ds).slots.length = n.slots.length := by
  unfold Night.receiveAll
  induction ds generalizing n with
  | nil => rfl
  | cons d rest ih => exact (ih _).trans (receive_length d n)

/-- The order of two defects is the world's choice. -/
theorem orderDefects_eq (ds : List Quality) (s : State) :
    ∃ w c, (orderDefects ds s).2 = { s with world := w, choices := c } := by
  unfold orderDefects
  split
  · split
    · exact ⟨s.world, s.choices, rfl⟩
    · exact choose_eq 2 s
  · exact ⟨s.world, s.choices, rfl⟩

theorem reachTracked_upholds {s : State} {r : NightRef} {n : Night} (a : Application) (h : s.night r = some n) :
    Upholds s (s.reachTracked a r n) := by
  unfold State.reachTracked
  dsimp only
  split
  · split
    · exact (setNight_same_upholds _ h (receive_length _ n)).trans (earlyCompletion_upholds _ r)
    · exact earlyCompletion_upholds s r
  · rename_i old new _
    obtain ⟨w, c, hs⟩ := orderDefects_eq (handedDefects s.slotSeconds a.waiting.meter n new) s
    have hw : Upholds s { s with world := w, choices := c } := .ofRest rfl rfl rfl rfl rfl rfl rfl rfl
    rw [hs]
    exact (hw.trans (setNight_same_upholds _ h ((receiveAll_length _ _).trans (change_length _ _ old new n)))).trans
      (earlyCompletion_upholds _ r)

theorem reachFrozen_upholds {s : State} {r : NightRef} {n : Night} (a : Application) (h : s.night r = some n) :
    Upholds s (s.reachFrozen a r n) :=
  .ite (fun _ => (setNight_same_upholds { n with lateCount := min (n.lateCount + 1) 65535 } h rfl).trans
    (recordExceptionIf_upholds _ _ _ _ _)) fun _ => .refl s

theorem placement_upholds (s : State) (r : NightRef) : Upholds s (s.placement r) := by
  unfold State.placement
  split
  · rename_i a n _ hn
    refine .ite (fun _ => ?_) fun _ => .refl s
    refine .ite (fun _ => ?_) fun _ => .ite (fun _ => ?_) fun _ => ?_
    · exact ((reachTracked_upholds a hn).trans (noteReached_upholds _ _ _)).trans (quiesce_upholds _)
    · exact ((reachFrozen_upholds a hn).trans (noteReached_upholds _ _ _)).trans (quiesce_upholds _)
    · exact (noteReached_upholds s r false).trans (quiesce_upholds _)
  · exact .refl s

theorem cutMeter_upholds (s : State) (i t : Nat) : Upholds s (s.cutMeter i t) := by
  unfold State.cutMeter
  split
  · exact .refl s
  · exact putMeter_upholds fun _ => chainOrdered_nil

theorem removeMeter_upholds (s : State) (i : Nat) : Upholds s (s.removeMeter i) :=
  (((dequeueWhere_upholds s _).trans (delMeter_upholds _ i)).trans (.units rfl)).trans (quiesce_upholds _)

/-! ### Readings, pulses and channels (R37 to R48) -/

theorem judge_accepted {s : State} {base : Nat} {r : ReadingSpec} (h : (s.judge base r).1 = .accepted) : s.hostWaiting < 56 := by
  unfold State.judge at h
  split at h
  · cases h
  · split at h
    · cases h
    · split at h
      · cases h
      · split at h
        · cases h
        · split at h
          · cases h
          · split at h
            · cases h
            · split at h
              · cases h
              · rename_i hfree
                have hfree' : ¬ 56 - s.hostWaiting = 0 := hfree
                omega

theorem takeRecords_upholds (base : Nat) (rs : List ReadingSpec) (s : State) : Upholds s (State.takeRecords base rs s).2 := by
  induction rs generalizing s with
  | nil => exact .refl s
  | cons r rest ih =>
    refine Upholds.trans (t := if (s.judge base r).1 = .accepted then s.enqueue (s.judge base r).2 (ReadingSpec.reading base r) .host else s)
      ?_ (ih _)
    exact .ite (fun h => enqueue_upholds (fun _ => judge_accepted h) fun c hc => by cases hc) fun _ => .refl s

theorem cutBound_upholds (s : State) (c : Nat) : Upholds s (s.cutBound c) := by
  unfold State.cutBound
  split
  · exact .refl s
  · exact cutMeter_upholds s _ _

theorem setChannelSettings_upholds (s : State) (c a b n : Nat) : Upholds s (s.setChannelSettings c a b n) :=
  (((setChannel_upholds s c _).trans (dequeueWhere_upholds _ _)).trans (cutBound_upholds _ c)).trans (quiesce_upholds _)

theorem clearRejected_upholds (s : State) (c : Nat) : Upholds s (s.clearRejected c) := setChannel_upholds s c _

theorem foldClear_upholds (cs : List Nat) (s : State) : Upholds s (cs.foldl State.clearRejected s) := by
  induction cs generalizing s with
  | nil => exact .refl s
  | cons c rest ih => exact (clearRejected_upholds s c).trans (ih _)

/-- The reserved place of a channel is empty once its reading is taken out. -/
theorem dequeueWhere_reserved (s : State) (c : Nat) :
    (s.dequeueWhere fun w => w.origin = .channel c).intake.queue.filter (fun w => w.origin = .channel c) = [] := by
  simp [State.dequeueWhere, List.filter_filter]

theorem channelActs_upholds (s : State) (c b : Nat) : Upholds s (s.channelActs c b) := by
  unfold State.channelActs
  split
  · exact clearRejected_upholds s c
  · rename_i i _ _
    have h : Upholds s ((s.dequeueWhere fun w => w.origin = .channel c).enqueue i (s.boundaryReading c b) (.channel c)) :=
      (dequeueWhere_upholds s _).trans (enqueue_upholds (fun h => by cases h) fun d hd => by cases hd; exact dequeueWhere_reserved s c)
    exact (h.trans (clearRejected_upholds _ c)).trans (quiesce_upholds _)

/-! ### Clock advances (R20 to R29) -/

theorem act_upholds {s : State} (hrun : s.clock.running = true) (t1 b : Nat) (a : Act) : Upholds s (s.act t1 b a) := by
  cases a with
  | regularStart z w => exact (regularStart_upholds hrun z w t1).trans (quiesce_upholds _)
  | surveyStart z => exact (surveyStart_upholds hrun z t1).trans (quiesce_upholds _)
  | windowEnd r => exact (windowEnds_upholds s r).trans (quiesce_upholds _)
  | deadline r => exact (deadlinePasses_upholds s r).trans (quiesce_upholds _)
  | announce c => exact channelActs_upholds s c b

theorem advanceLoop_upholds (t0 t1 b k : Nat) (zs : List (Nat × Nat)) (cs : List Nat) {s : State}
    (hrun : s.clock.running = true) : Upholds s (advanceLoop t0 t1 b k zs cs s) := by
  induction k generalizing zs cs s with
  | zero => exact .refl s
  | succ k ih =>
    unfold advanceLoop
    split
    · exact .refl s
    · rename_i rest _
      have h := choose_upholds (rest.length + 1) s
      have hact (a : Act) := h.trans (act_upholds (h.clock hrun).2.1 t1 b a)
      exact (hact _).trans (ih _ _ ((hact _).clock hrun).2.1)

/-- A clock advance to a later time, in RUN. -/
theorem advance_upholds {s : State} {t1 : Nat} (hrun : s.clock.running = true) (ht : s.clock.time ≤ t1) :
    Upholds s (s.advance t1) := by
  have hc : Upholds s { s with clock := { s.clock with time := t1 } } := upholds_clock (fun h => ⟨ht, h, rfl⟩) id
  have h := hc.trans (foldClear_upholds ((s.announced t1).filter fun c => (s.boundMeter c).isNone) _)
  exact h.trans (advanceLoop_upholds _ _ _ _ _ _ (h.clock hrun).2.1)

theorem tick_upholds (s : State) : Upholds s s.tick :=
  .ite (fun h => advance_upholds (Bool.and_eq_true_iff.1 h).1 (Nat.le_succ _)) fun _ => .refl s

end Sys2Proof.Machine

end

/-! Requests and the link uphold the invariants (`Upholds`): every handler by its kind, the arbiter and the frame receiver. -/

section

namespace Sys2Proof.Machine

/-! ### Executing a request (R2, R152)

Every handler answers a state that upholds what the state it ran in upheld. -/

/-- What an execution leaves upholds the invariants. -/
def Ran.Uphold (s : State) : Ran → Prop
  | .done _ _ t _ => Upholds s t
  | .wait => True

theorem uphold_refuse (s : State) (st : Status) : Ran.Uphold s (.refuse st s) := Upholds.refl s

theorem uphold_ok {s t : State} (f : List Byte) (h : Upholds s t) : Ran.Uphold s (.ok f t) := h

theorem Ran.Uphold.ite {s : State} {c : Prop} [Decidable c] {x y : Ran} (hx : c → Ran.Uphold s x) (hy : ¬ c → Ran.Uphold s y) :
    Ran.Uphold s (if c then x else y) := by
  split
  case isTrue h => exact hx h
  case isFalse h => exact hy h

/-- A request refused on a condition. -/
theorem Ran.Uphold.unless {s : State} {c : Prop} [Decidable c] {x : Ran} (st : Status) (hx : ¬ c → Ran.Uphold s x) :
    Ran.Uphold s (if c then .refuse st s else x) := .ite (fun _ => uphold_refuse s st) hx

theorem uphold_onZone {s : State} {z : Nat} {f : ZoneEntry → Ran} (h : ∀ e, Ran.Uphold s (f e)) : Ran.Uphold s (onZone s z f) := by
  unfold onZone
  split
  · exact uphold_refuse s _
  · exact h _

theorem uphold_onMeter {s : State} {tag : Nat} {f : Nat → Meter → Ran} (h : ∀ i m, s.meter i = some m → Ran.Uphold s (f i m)) :
    Ran.Uphold s (onMeter s tag f) := by
  unfold onMeter
  split
  · exact uphold_refuse s _
  · split
    · exact uphold_refuse s _
    · exact h _ _ ‹_›

/-! ### Zones and surveys -/

theorem uphold_zoneDefine (s : State) (z : Nat) : Ran.Uphold s (s.runZoneDefine z) :=
  .unless _ fun _ => uphold_ok _ (setEntry_upholds s z _)

theorem uphold_zoneStart (s : State) (z : Nat) : Ran.Uphold s (s.runZoneStart z) :=
  .unless _ fun _ => uphold_onZone fun _ => .unless _ fun _ => uphold_ok _ (setEntry_upholds s z _)

theorem uphold_zoneStop (s : State) (z : Nat) : Ran.Uphold s (s.runZoneStop z) :=
  uphold_onZone fun _ => .unless _ fun _ =>
    uphold_ok _ (((setEntry_upholds s z _).trans (stopNightsLoop_upholds 3 z _)).trans (quiesce_upholds _))

theorem uphold_zoneUndefine (s : State) (z : Nat) : Ran.Uphold s (s.runZoneUndefine z) :=
  uphold_onZone fun _ => .unless _ fun _ => .unless _ fun _ => .unless _ fun _ => .unless _ fun _ =>
    uphold_ok _ (setZone_upholds ⟨fun _ => Verdict.holds_of_none rfl, le_rfl, le_rfl, le_rfl⟩)

theorem uphold_zoneSetWindow (s : State) (z : Nat) (f : WindowSpec) : Ran.Uphold s (s.runZoneSetWindow z f) :=
  uphold_onZone fun _ => .unless _ fun _ => .unless _ fun _ => uphold_ok _ (setEntry_upholds s z _)

theorem uphold_zoneSetAllowance (s : State) (z a b : Nat) (us : List User) : Ran.Uphold s (s.runZoneSetAllowance z a b us) :=
  uphold_onZone fun _ => .unless _ fun _ => uphold_ok _ (setEntry_upholds s z _)

theorem uphold_zoneSetTests (s : State) (z : Nat) (t : Tests) : Ran.Uphold s (s.runZoneSetTests z t) :=
  uphold_onZone fun _ => uphold_ok _ (setEntry_upholds s z _)

theorem uphold_disturb (s : State) (z a b : Nat) : Ran.Uphold s (s.runDisturb z a b) :=
  uphold_onZone fun _ => .unless _ fun _ => uphold_ok _ (widenSettle_upholds s z _)

/-- An ARMED survey holds no slot records. -/
theorem armSurvey_upholds {s : State} {z : Nat} {n : Night} (h : n.slots = []) : Upholds s (s.armSurvey z n) := by
  have hn : heldBy (some n) = 0 := by simp [heldBy, h]
  exact ((releaseNight_upholds s _).trans (setNight_upholds (hn.trans_le (Nat.zero_le _)))).trans (quiesce_upholds _)

theorem uphold_surveyArm (s : State) (z : Nat) (f : SurveySpec) (b : Bool) : Ran.Uphold s (s.runSurveyArm z f b) :=
  .unless _ fun _ => uphold_onZone fun _ => .unless _ fun _ => .unless _ fun _ => .unless _ fun _ => .unless _ fun _ =>
    uphold_ok _ (armSurvey_upholds rfl)

theorem uphold_surveyCancel (s : State) (z : Nat) : Ran.Uphold s (s.runSurveyCancel z) := by
  refine uphold_onZone fun _ => ?_
  split
  · exact uphold_refuse s _
  · exact .unless _ fun _ => uphold_ok _ ((releaseNight_upholds s _).trans (quiesce_upholds _))

/-! ### Verdict requests -/

theorem uphold_dispose (s : State) (z d : Nat) (b : Bool) : Ran.Uphold s (s.runDispose z d b) := by
  unfold State.runDispose
  split
  · exact uphold_onZone fun _ => .unless _ fun _ => uphold_ok _ (dispose_upholds s z _)
  · exact uphold_onZone fun _ => .unless _ fun _ => .unless _ fun _ => uphold_ok _ (dispose_upholds s z _)
  · exact uphold_onZone fun _ => .unless _ fun hs => .unless _ fun _ => uphold_ok _ (repairDone_upholds (not_not.1 hs))

theorem uphold_rebaseline (s : State) (z : Nat) : Ran.Uphold s (s.runRebaseline z) :=
  uphold_onZone fun _ => uphold_ok _ (replaceVerdict_upholds fun _ => Verdict.holds_of_none rfl)

theorem uphold_baselinePut (s : State) (z : Nat) (b : Int) (n c : Nat) : Ran.Uphold s (s.runBaselinePut z b n c) :=
  uphold_onZone fun _ => .unless _ fun hs =>
    uphold_ok _ (replaceVerdict_upholds fun hv => Verdict.holds_of_none (hv.waiting_none fun h => hs (.inl h)))

/-! ### Meters, readings and channels -/

theorem uphold_meterDefine (s : State) (f : MeterSpec) : Ran.Uphold s (s.runMeterDefine f) :=
  .unless _ fun _ => .unless _ fun _ => .unless _ fun _ => .unless _ fun _ => .unless _ fun _ =>
    uphold_ok _ (putMeter_upholds fun _ => chainOrdered_nil)

theorem uphold_wait (s : State) (tag : Nat) : Ran.Uphold s (onMeter s tag fun _ _ => .wait) :=
  uphold_onMeter fun _ _ _ => trivial

theorem uphold_meterStatus (s : State) (tag : Nat) : Ran.Uphold s (s.runMeterStatus tag) :=
  uphold_onMeter fun i _ _ => uphold_ok _ (emptyExceptions_upholds s i)

theorem uphold_exceptionsTag (s : State) (tag : Nat) : Ran.Uphold s (s.runExceptionsTag tag) :=
  uphold_onMeter fun i _ _ => uphold_ok _ (emptyExceptions_upholds s i)

theorem foldEmpty_upholds (ps : List (Nat × Meter)) (s : State) :
    Upholds s (ps.foldl (fun s p => s.emptyExceptions p.1) s) := by
  induction ps generalizing s with
  | nil => exact .refl s
  | cons p rest ih => exact (emptyExceptions_upholds s p.1).trans (ih _)

theorem uphold_readings (s : State) (base : Nat) (rs : List ReadingSpec) : Ran.Uphold s (s.runReadings base rs) :=
  uphold_ok _ (takeRecords_upholds base rs s)

theorem uphold_takeChannelSet (s : State) (c a b n : Nat) : Ran.Uphold s (s.takeChannelSet c a b n) :=
  .unless _ fun _ => uphold_ok _ (setChannelSettings_upholds s c a b n)

theorem uphold_channelSet (s : State) (c : Nat) (f : ChannelSpec) : Ran.Uphold s (s.runChannelSet c f) := by
  unfold State.runChannelSet
  split
  · exact .ite (fun _ => trivial) fun _ => uphold_takeChannelSet s c _ _ _
  · exact uphold_ok _ (.refl s)

theorem uphold_takeRetire (s : State) (tag : Nat) : Ran.Uphold s (s.takeRetire tag) :=
  uphold_onMeter fun i _ _ => .unless _ fun _ => uphold_ok _ (removeMeter_upholds s i)

theorem uphold_takeCut (s : State) (tag t : Nat) : Ran.Uphold s (s.takeCut tag t) :=
  uphold_onMeter fun i _ _ => uphold_ok _ (cutMeter_upholds s i t)

/-! ### The part as a whole and streams -/

/-- A canonical table lists no record that is the default. -/
theorem ne_initial_of_mem {t : List (Nat × Zone)} (h : Table.wf (some Zone.initial) t = true) {p : Nat × Zone} (hp : p ∈ t) :
    p.2 ≠ Zone.initial := by
  induction t with
  | nil => cases hp
  | cons q rest ih =>
    simp only [Table.wf, Bool.and_eq_true, bne_iff_ne] at h
    obtain ⟨⟨-, hq⟩, hrest⟩ := h
    obtain rfl | hp := List.mem_cons.1 hp
    · exact fun he => hq (congrArg some he)
    · exact ih hrest hp

theorem dropWindow_ne_initial {v : Zone} (h : v ≠ Zone.initial) : v.dropWindow ≠ Zone.initial := by
  intro hd
  apply h
  cases v with
  | mk entry verdict n0 n1 n2 skip flags blocked =>
    cases entry with
    | none => exact hd
    | some e => simp [Zone.dropWindow, Zone.initial] at hd

/-- A new slot length takes every window and leaves every verdict record and every night as it was (R7, R30). -/
theorem dropWindows_upholds (s : State) : Upholds s { s with zones := s.zones.map fun p => (p.1, p.2.dropWindow) } := by
  refine upholds_zones (fun h => ?_) (fun hs p hp => ?_) (fun _ => ?_) (fun _ => ?_)
  · exact wf_map _ Zone.dropWindow _ (fun p hp hd => dropWindow_ne_initial (ne_initial_of_mem h hp) (Option.some.inj hd)) h
  · obtain ⟨q, hq, rfl⟩ := List.mem_map.1 hp
    exact hs q hq
  · exact heldSum_map_le (f := Zone.dropWindow) (g := fun v => heldBy v.night0 + heldBy v.night1) (fun _ => le_rfl) _
  · exact heldSum_map_le (f := Zone.dropWindow) (g := fun v => heldBy v.night2) (fun _ => le_rfl) _

theorem setSlotLength_upholds (s : State) (n : Nat) : Upholds s (s.setSlotLength n) := by
  have h : Upholds s { s with settings := { s.settings with slotLength := n } } := upholds_settings fun _ => rfl
  exact .ite (fun _ => .refl s) fun _ => h.trans (dropWindows_upholds _)

theorem setNoticeMode_upholds (s : State) (m : NoticeMode) : Upholds s (s.setNoticeMode m) := by
  have h : Upholds s { s with settings := { s.settings with noticeMode := m } } := upholds_settings fun _ => rfl
  exact .ite (fun _ => h.trans (unblockAll_upholds _)) fun _ => h

theorem setSlotLength_clock (s : State) (n : Nat) : (s.setSlotLength n).clock = s.clock := by
  unfold State.setSlotLength
  split <;> rfl

theorem setNoticeMode_clock (s : State) (m : NoticeMode) : (s.setNoticeMode m).clock = s.clock := by
  unfold State.setNoticeMode
  dsimp only
  split <;> rfl

/-- The reserve and the interval set last: in RUN SYSTEM SET carries no survey reserve (R30). -/
theorem setReserve_upholds {s t : State} {f : SystemSpec} (h : Upholds s t) (hc : t.clock = s.clock)
    (hf : s.clock.running = true → f.reserve = none) :
    Upholds s { t with settings := { t.settings with reserve := f.reserve.getD t.settings.reserve,
                                                     interval := f.interval.getD t.settings.interval } } :=
  h.trans (upholds_settings fun hr => by rw [hf (hc ▸ hr)]; rfl)

/-- SYSTEM SET carried out (R30). -/
theorem applySystem_upholds {s : State} {f : SystemSpec} (hf : s.clock.running = true → f.reserve = none) :
    Upholds s (s.applySystem f) := by
  unfold State.applySystem
  cases f.slotLength with
  | none =>
    cases f.noticeMode.bind NoticeMode.ofCode with
    | none => exact setReserve_upholds (.refl s) rfl hf
    | some m => exact setReserve_upholds (setNoticeMode_upholds s m) (setNoticeMode_clock s m) hf
  | some n =>
    have h := setSlotLength_upholds s n
    have hc := setSlotLength_clock s n
    cases f.noticeMode.bind NoticeMode.ofCode with
    | none => exact setReserve_upholds h hc hf
    | some m => exact setReserve_upholds (h.trans (setNoticeMode_upholds _ m)) ((setNoticeMode_clock _ m).trans hc) hf

theorem uphold_systemSet (s : State) (f : SystemSpec) : Ran.Uphold s (s.runSystemSet f) := by
  refine .unless _ fun h => uphold_ok _ (applySystem_upholds fun hrun => ?_)
  simp only [hrun, Bool.true_and, Bool.or_eq_true, not_or] at h
  exact Option.not_isSome_iff_eq_none.1 h.1.2

theorem flush_upholds (s : State) : Upholds s s.flush := by
  have hz := rewriteZones_upholds s (f := Zone.withoutNights) fun _ => ⟨id, Nat.zero_le _, Nat.zero_le _, Nat.zero_le _⟩
  have hm (t : State) : Upholds t { t with meters := t.meters.map fun p => (p.1, { p.2 with chain := [] }) } := by
    refine upholds_meters (fun h => ?_) fun _ p hp => ?_
    · exact wf_map _ (fun m : Meter => { m with chain := [] }) _ (fun _ _ => Option.some_ne_none _) h
    · obtain ⟨q, -, rfl⟩ := List.mem_map.1 hp
      exact chainOrdered_nil
  have hi (t : State) : Upholds t { t with intake := { t.intake with queue := [] } } := thinIntake_upholds (List.nil_sublist _)
  exact ((hz.trans (hm _)).trans (hi _)).trans (.units rfl)

theorem uphold_clockSet (s : State) (t d : Option Nat) : Ran.Uphold s (s.runClockSet t d) := by
  unfold State.runClockSet
  split
  case isTrue hrun =>
    refine .unless _ fun _ => ?_
    split
    · exact uphold_ok _ (.refl s)
    · refine .unless _ fun hlt => ?_
      exact .ite (fun _ => uphold_ok _ (.refl s)) fun _ => uphold_ok _ (advance_upholds hrun (not_lt.1 hlt))
  case isFalse hcold =>
    unfold State.runClockCold
    split
    · exact uphold_ok _ (.refl s)
    · exact uphold_refuse s _
    · exact uphold_ok _ (upholds_clock (fun h => absurd h hcold) fun h => by cases h)

theorem uphold_rollcall (s : State) (a b m : Nat) : Ran.Uphold s (s.runRollcall a b m) :=
  .unless _ fun _ => uphold_ok (s := s) [] (.units rfl)

theorem uphold_rollcallNext (s : State) : Ran.Uphold s s.runRollcallNext := by
  unfold State.runRollcallNext
  split
  · exact uphold_refuse s _
  · split
    · exact uphold_refuse s _
    · exact uphold_refuse s _
    · split
      · exact uphold_ok _ (.units rfl)
      · exact uphold_ok _ (.units rfl)

theorem uphold_rollcallStop (s : State) : Ran.Uphold s s.runRollcallStop := by
  unfold State.runRollcallStop
  split
  · exact uphold_refuse s _
  · split
    · exact uphold_ok _ (.units rfl)
    · exact uphold_ok _ (.units rfl)
    · exact uphold_ok _ (.units rfl)

theorem uphold_profile (s : State) (z d : Nat) : Ran.Uphold s (s.runProfile z d) := by
  refine uphold_onZone fun _ => ?_
  dsimp only
  split
  · exact uphold_refuse s _
  · exact .unless _ fun _ => .unless _ fun _ => uphold_ok (s := s) [] (.units rfl)

/-- Executing a request upholds the invariants. -/
theorem uphold_runKind (s : State) (r : Request) : Ran.Uphold s (s.runKind r) := by
  cases r with
  | identify => exact uphold_ok _ (.refl s)
  | systemSet f => exact uphold_systemSet s f
  | poolStatus => exact uphold_ok _ (.refl s)
  | flush => exact uphold_ok _ (flush_upholds s)
  | ack e f => exact uphold_ok _ (acknowledge_upholds s e f)
  | clockSet t d => exact uphold_clockSet s t d
  | surveyArm z f b => exact uphold_surveyArm s z f b
  | surveyCancel z => exact uphold_surveyCancel s z
  | zoneDefine z => exact uphold_zoneDefine s z
  | zoneStart z => exact uphold_zoneStart s z
  | zoneStop z => exact uphold_zoneStop s z
  | zoneUndefine z => exact uphold_zoneUndefine s z
  | zoneSetWindow z f => exact uphold_zoneSetWindow s z f
  | zoneSetAllowance z a b us => exact uphold_zoneSetAllowance s z a b us
  | zoneSetTests z t => exact uphold_zoneSetTests s z t
  | disturb z a b => exact uphold_disturb s z a b
  | meterDefine f => exact uphold_meterDefine s f
  | meterRetire tag => exact uphold_wait s tag
  | meterCut tag _ => exact uphold_wait s tag
  | meterStatus tag => exact uphold_meterStatus s tag
  | exceptionsTag tag => exact uphold_exceptionsTag s tag
  | exceptionsSweep i => exact uphold_ok _ (foldEmpty_upholds _ s)
  | readings base rs => exact uphold_readings s base rs
  | channelSet c f => exact uphold_channelSet s c f
  | dispose z d b => exact uphold_dispose s z d b
  | rebaseline z => exact uphold_rebaseline s z
  | baselineGet z => exact uphold_onZone fun _ => uphold_ok _ (.refl s)
  | baselinePut z b n c => exact uphold_baselinePut s z b n c
  | resultGet z n => exact uphold_onZone fun _ => uphold_ok _ (.refl s)
  | zoneStatus z => exact uphold_onZone fun _ => uphold_ok _ (.refl s)
  | rollcall a b m => exact uphold_rollcall s a b m
  | rollcallNext => exact uphold_rollcallNext s
  | rollcallStop => exact uphold_rollcallStop s
  | profile z d => exact uphold_profile s z d
  | unknown => exact uphold_refuse s _
  | badLength => exact uphold_refuse s _
  | badValue => exact uphold_refuse s _

theorem uphold_runRequest (s : State) (r : Request) : Ran.Uphold s (s.runRequest r) :=
  .ite (fun _ => uphold_runKind s r) fun _ => uphold_refuse s _

theorem uphold_takeKind (s : State) (r : Request) : Ran.Uphold s (s.takeKind r) := by
  unfold State.takeKind
  split
  · exact uphold_takeRetire s _
  · exact uphold_takeCut s _ _
  · exact uphold_takeChannelSet s _ _ _ _
  · trivial

/-! ### The link (R148 to R155) -/

/-- The link rewritten, its reject queue no longer than it may be. -/
theorem upholds_link {s : State} {l : Link} (h : s.link.rejects.length ≤ 4 → l.rejects.length ≤ 4) :
    Upholds s { s with link := l } := .ofTables rfl rfl rfl rfl rfl rfl rfl h

theorem addReject_upholds (s : State) (c : RejectCause) (tag : Byte) : Upholds s (s.addReject c tag) :=
  .ite (fun h => upholds_link fun _ => by rw [List.length_append]; exact h) fun _ => .refl s

theorem settle_upholds {s : State} (h : Held) {x : Ran} (hx : Ran.Uphold s x) : Upholds s (s.settle h x) := by
  cases x with
  | done st f t b => exact Upholds.trans (t := t) hx (upholds_link id)
  | wait => exact .refl s

theorem serve_upholds (s : State) (h : Held) : Upholds s (s.serve h) := by
  have hl : Upholds s { s with link := { s.link with head := some { held := h, reply := none } } } := upholds_link id
  exact hl.trans (settle_upholds h (uphold_runRequest _ _))

theorem deliver_upholds (s : State) (h : Held) : Upholds s (s.deliver h) := by
  unfold State.deliver
  split
  · exact serve_upholds s h
  · exact upholds_link id
  · exact addReject_upholds s _ _

theorem takeWaiting_upholds (s : State) (wanted : Request → Bool) : Upholds s (s.takeWaiting wanted) := by
  unfold State.takeWaiting
  split
  · exact .refl s
  · exact .ite (fun _ => settle_upholds _ (uphold_takeKind s _)) fun _ => .refl s

theorem send_upholds (s : State) (f : Frame) (x : Source) : Upholds s (s.send f x) := upholds_link id

theorem promote_upholds (s : State) : Upholds s s.promote := by
  unfold State.promote
  split
  · exact upholds_link id
  · have h : Upholds s { s with link := { s.link with second := none } } := upholds_link id
    exact h.trans (serve_upholds _ _)

theorem startReject_upholds (s : State) : Upholds s s.startReject := by
  unfold State.startReject
  split
  · exact .refl s
  · rename_i j rest hq
    refine Upholds.trans (upholds_link fun h => ?_) (send_upholds _ _ _)
    rw [hq, List.length_cons] at h
    exact (Nat.le_succ _).trans h

theorem startAnswer_upholds (s : State) : Upholds s s.startAnswer := by
  unfold State.startAnswer
  split
  · exact .ite (fun _ => (send_upholds s _ _).trans (promote_upholds _)) fun _ => startReject_upholds s
  · exact startReject_upholds s

theorem startNotice_upholds (s : State) : Upholds s s.startNotice := by
  unfold State.startNotice
  split
  · exact .refl s
  · exact (buildNotice_upholds s _).trans (send_upholds _ _ _)

theorem buildProfile_upholds (s : State) (st : Stream) (r : NightRef) (left : Nat) (held : Bool) :
    Upholds s (s.buildProfile st r left held).2.2 := by
  unfold State.buildProfile
  split
  · split
    · exact .units rfl
    · exact .units rfl
  · exact .units rfl

theorem buildWalk_upholds (s : State) (st : Stream) (next left : Nat) : Upholds s (s.buildWalk st next left).2.2 := by
  unfold State.buildWalk
  split
  · exact .units rfl
  · exact .units rfl

theorem buildStream_upholds (s : State) (st : Stream) : Upholds s (s.buildStream st).2.2 := by
  unfold State.buildStream
  split
  · exact .units rfl
  · split
    · exact buildWalk_upholds s st _ _
    · exact buildWalk_upholds s st _ _
    · exact buildProfile_upholds s st _ _ _

theorem startStream_upholds (s : State) : Upholds s s.startStream := by
  unfold State.startStream
  split
  · exact .refl s
  · exact (buildStream_upholds s _).trans (send_upholds _ _ _)

theorem startOffer_upholds (s : State) (o : Offer) : Upholds s (s.startOffer o) := by
  cases o with
  | answer => exact startAnswer_upholds s
  | notice => exact startNotice_upholds s
  | stream => exact startStream_upholds s

theorem arbitrate_upholds (s : State) : Upholds s s.arbitrate := by
  refine .ite (fun _ => ?_) fun _ => .refl s
  split
  · exact .refl s
  · exact startOffer_upholds s _

theorem afterwards_upholds (s : State) : Upholds s s.afterwards := by
  refine .ite (fun _ => ?_) fun _ => .refl s
  split
  · exact .refl s
  · exact (choose_upholds _ s).trans (startOffer_upholds _ _)

theorem afterFrame_upholds (s : State) (x : Source) : Upholds s (s.afterFrame x) := by
  cases x with
  | reply b => exact .ite (fun _ => .units rfl) fun _ => .refl s
  | streamFrame => exact .units rfl
  | _ => exact .refl s

theorem endTransmission_upholds (s : State) : Upholds s s.endTransmission := by
  unfold State.endTransmission
  split
  · exact .refl s
  · have h : Upholds s { s with link := { s.link with sending := none } } := upholds_link id
    exact (h.trans (afterFrame_upholds _ _)).trans (arbitrate_upholds _)

/-! ### The frame receiver (R146 to R150) -/

theorem abandon_upholds (s : State) (c : RejectCause) : Upholds s (s.abandon c) := by
  unfold State.abandon
  split
  · exact .refl s
  · have h : Upholds s { s with link := { s.link with rx := .hunting } } := upholds_link id
    exact (h.trans (addReject_upholds _ _ _)).trans (afterwards_upholds _)

theorem judgeFrame_upholds (s : State) (got : List Byte) : Upholds s (s.judgeFrame got) := by
  have h : Upholds s { s with link := { s.link with rx := .hunting } } := upholds_link id
  exact .ite (fun _ => (h.trans (deliver_upholds _ _)).trans (afterwards_upholds _))
    fun _ => (h.trans (addReject_upholds _ _ _)).trans (afterwards_upholds _)

theorem receiveByte_upholds (s : State) (b : Byte) : Upholds s (s.receiveByte b) := by
  unfold State.receiveByte
  split
  · exact .ite (fun _ => upholds_link id) fun _ => .refl s
  · rename_i got _
    have h : Upholds s { s with link := { s.link with rx := .inFrame (got ++ [b]) } } := upholds_link id
    exact .ite (fun _ => h.trans (abandon_upholds _ _)) fun _ => .ite (fun _ => h.trans (judgeFrame_upholds _ _)) fun _ => h

theorem receiveBytes_upholds (s : State) (bs : List Byte) : Upholds s (s.receiveBytes bs) := by
  unfold State.receiveBytes
  induction bs generalizing s with
  | nil => exact .refl s
  | cons b rest ih => exact (receiveByte_upholds s b).trans (ih _)

theorem lineHigh_upholds (s : State) : Upholds s s.lineHigh := upholds_link id

theorem receiveWhole_upholds (s : State) (bs : List Byte) : Upholds s (s.receiveWhole bs) :=
  .ite (fun _ => .refl s) fun _ => (lineHigh_upholds s).trans (receiveBytes_upholds _ _)

theorem receiveFrame_upholds (s : State) (bs : List Byte) : Upholds s (s.receiveFrame bs) := by
  unfold State.receiveFrame
  split
  · exact (lineHigh_upholds s).trans (receiveBytes_upholds _ _)
  · exact (lineHigh_upholds s).trans (receiveBytes_upholds _ _)

theorem receiveLevel_upholds (s : State) (level : Bool) : Upholds s (s.receiveLevel level) := by
  have h : Upholds s { s with link := { s.link with line := (s.link.line.take s.link.parity level).1 } } := upholds_link id
  unfold State.receiveLevel
  dsimp only
  split
  · exact h
  · exact .ite (fun _ => h.trans (receiveByte_upholds _ _)) fun _ => h.trans (abandon_upholds _ _)

theorem receiveLevels_upholds (s : State) (ls : List Bool) : Upholds s (s.receiveLevels ls) := by
  unfold State.receiveLevels
  induction ls generalizing s with
  | nil => exact .refl s
  | cons l rest ih => exact (receiveLevel_upholds s l).trans (ih _)

theorem receive_upholds (s : State) (kind tag : Byte) (r : Request) : Upholds s (s.receive kind tag r) := by
  have h : Upholds s { s with link := { s.link with line := .idle, rx := .hunting } } := upholds_link id
  exact h.trans (deliver_upholds _ _)

/-! ### The rows of the table -/

theorem live_upholds {s : State} {f : State → State} (h : Upholds s (f s)) : Upholds s (s.live f) :=
  .ite (fun _ => .refl s) fun _ => h

/-- What a row does on a live part, and what the arbiter then starts. -/
theorem live_afterwards_upholds {s : State} {f : State → State} (h : Upholds s (f s)) :
    Upholds s (s.live fun s => (f s).afterwards) := live_upholds (h.trans (afterwards_upholds _))

theorem request_upholds (s : State) (kind tag : Byte) (r : Request) : Upholds s (s.request kind tag r) :=
  live_afterwards_upholds (receive_upholds s kind tag r)

theorem fallingEdge_upholds (s : State) (c : Nat) : Upholds s (s.fallingEdge c) :=
  .ite (fun _ => .refl s) fun _ => .ite (fun _ => setChannel_upholds s c _) fun _ => setChannel_upholds s c _

theorem risingEdge_upholds (s : State) (c micros : Nat) : Upholds s (s.risingEdge c micros) :=
  .ite (fun _ => .refl s) fun _ => .ite (fun _ => setChannel_upholds s c _) fun _ => setChannel_upholds s c _

end Sys2Proof.Machine

end

/-! Every row of the table maintains the invariants (O55 to O58, O60), and leaves a free line quiet (O59). -/

section

namespace Sys2Proof.Machine

theorem upholds_of_next {s t u : State} (h : (.next u : Host.Outcome State Fault Refusal) = .next t) (hu : Upholds s u) : Upholds s t := Host.Outcome.next.inj h ▸ hu

/-- Every row but a power-on and a release of RESET upholds the invariants. -/
theorem exec_upholds {c : Instr} {s t : State} (h : exec c s = .next t) (hpower : ∀ b p, c ≠ .powerOn b p)
    (hrelease : ∀ p, c ≠ .resetRelease p) : Upholds s t := by
  cases hreq : c.requestOf with
  | some x =>
    obtain ⟨k, tag, r⟩ := x
    rw [exec_request c k tag r s hreq] at h
    exact upholds_of_next h (request_upholds s k tag r)
  | none =>
    cases c with
    | powerOn b p => exact absurd rfl (hpower b p)
    | resetAssert => exact upholds_of_next h (upholds_link id)
    | resetRelease p => exact absurd rfl (hrelease p)
    | tick => exact upholds_of_next h (live_afterwards_upholds (tick_upholds s))
    | pulseFallingEdge c => exact upholds_of_next h (fallingEdge_upholds s c)
    | pulseRisingEdge c m => exact upholds_of_next h (risingEdge_upholds s c m)
    | charError bs ls =>
      exact upholds_of_next h (live_afterwards_upholds ((receiveWhole_upholds s bs).trans (receiveLevels_upholds _ ls)))
    | tooLong len => exact upholds_of_next h (live_afterwards_upholds (receiveFrame_upholds s [len]))
    | timeout bs =>
      have hb := (lineHigh_upholds s).trans (receiveBytes_upholds _ bs)
      exact upholds_of_next h (live_afterwards_upholds (hb.trans (abandon_upholds _ _)))
    | frame k tag body crc => exact upholds_of_next h (live_afterwards_upholds (receiveFrame_upholds s _))
    | unknownKind k tag =>
      refine upholds_of_next h (live_upholds (.ite (fun _ => .refl s) fun _ => ?_))
      exact (receive_upholds s k tag _).trans (afterwards_upholds _)
    | transmissionEnd => exact upholds_of_next h (live_upholds (endTransmission_upholds s))
    | streamIntervalExpiry => exact upholds_of_next h (live_afterwards_upholds (.units rfl))
    | holdAssert => exact upholds_of_next h (upholds_link id)
    | holdDeassert =>
      have hl : Upholds s { s with link := { s.link with hold := false } } := upholds_link id
      exact upholds_of_next h (hl.trans (arbitrate_upholds _))
    | retireTaken => exact upholds_of_next h (live_afterwards_upholds (takeWaiting_upholds s _))
    | cutTaken => exact upholds_of_next h (live_afterwards_upholds (takeWaiting_upholds s _))
    | channelSetTaken => exact upholds_of_next h (live_afterwards_upholds (takeWaiting_upholds s _))
    | takeReading => exact upholds_of_next h (live_afterwards_upholds (takeReading_upholds s))
    | chainDecision => exact upholds_of_next h (live_afterwards_upholds (chainDecision_upholds s))
    | placement z d => exact upholds_of_next h (live_afterwards_upholds (placement_upholds s ⟨z, d⟩))
    | assessorTake => exact upholds_of_next h (live_afterwards_upholds (assessorTake_upholds s))
    | assessmentCompletion => exact upholds_of_next h (live_afterwards_upholds (completeAssessment_upholds s))
    | sync =>
      exact upholds_of_next h (live_afterwards_upholds ((lineHigh_upholds s).trans (receiveByte_upholds _ _)))
    | _ => cases hreq

/-- A reset empties every table and queue but the channels, which it leaves in canonical form. -/
theorem resetBlocks_maintains (s : State) {l : Link} (hl : l.rejects = []) : Maintains s (s.resetBlocks l) where
  chains _ p hp := by cases hp
  intake _ := ⟨Nat.zero_le _, fun _ => Nat.zero_le _, .nil, fun w hw => by cases hw⟩
  notices _ := List.nodup_nil
  rejects _ := by
    change l.rejects.length ≤ 4
    simp [hl]
  waiting _ p hp := by cases hp
  canonical h := ⟨rfl, rfl, wf_map_filter _ Channel.afterReset _ h.2.2⟩
  pool _ _ := Nat.zero_le _
  reserve _ _ := ⟨Nat.zero_le _, fun _ => rfl⟩

theorem released_maintains (s : State) (p : Straps) : Maintains s (s.released p) := resetBlocks_maintains s rfl

/-- Every row maintains the invariants. -/
theorem exec_maintains {c : Instr} {s t : State} (h : exec c s = .next t) : Maintains s t := by
  by_cases hpower : ∃ b p, c = .powerOn b p
  · obtain ⟨b, p, rfl⟩ := hpower
    cases b with
    | false => exact Host.Outcome.next.inj h ▸ released_maintains s p
    | true =>
      obtain rfl := Host.Outcome.next.inj h
      exact resetBlocks_maintains s rfl
  · by_cases hrelease : ∃ p, c = .resetRelease p
    · obtain ⟨p, rfl⟩ := hrelease
      exact Host.Outcome.next.inj h ▸ released_maintains s p
    · exact (exec_upholds h (fun b p hc => hpower ⟨b, p, hc⟩) fun p hc => hrelease ⟨p, hc⟩).toMaintains

/-- A step is the front command's row, on the state with the queue's rest. -/
theorem step_cases {s t : State} (h : step s = .next t) :
    t = s ∨ ∃ c rest, s.pending = c :: rest ∧ exec c { s with pending := rest } = .next t := by
  unfold step at h
  split at h
  · exact .inl (Host.Outcome.next.inj h).symm
  · exact .inr ⟨_, _, ‹_›, h⟩

theorem pending_upholds (s : State) (cs : List Instr) : Upholds s { s with pending := cs } :=
  .ofRest rfl rfl rfl rfl rfl rfl rfl rfl

/-- Every step maintains the invariants. -/
theorem step_maintains {s t : State} (h : step s = .next t) : Maintains s t := by
  obtain rfl | ⟨c, rest, -, h⟩ := step_cases h
  · exact (Upholds.refl t).toMaintains
  · exact (pending_upholds s rest).toMaintains.trans (exec_maintains h)

/-! ### The invariants -/

/-- Settles O55: every act leaves each chain as it was, empties it, or enters a reading at its place (`decide_chainOrdered`). -/
theorem chainsStayOrdered : Obligations.ChainsStayOrdered := by
  unfold Obligations.ChainsStayOrdered
  exact fun s t hs h => (step_maintains h).chains hs

/-- Settles O56: readings and entries join a queue under its guard alone, and nights open where their records fit. -/
theorem queuesKeepTheirLimits : Obligations.QueuesKeepTheirLimits := by
  unfold Obligations.QueuesKeepTheirLimits
  intro s t h
  have hm := step_maintains h
  exact ⟨hm.intake, hm.notices, hm.rejects, hm.pool, hm.reserve⟩

/-- Settles O57: only the alarm hold takes a waiting result (`Verdict.handle_holds`), and what leaves ALARM takes it out. -/
theorem waitingOnlyInAlarm : Obligations.WaitingOnlyInAlarm := by
  unfold Obligations.WaitingOnlyInAlarm
  exact fun s t hs h => (step_maintains h).waiting hs

/-- Settles O58: every write of a table keeps its canonical form. -/
theorem tablesStayCanonical : Obligations.TablesStayCanonical := by
  unfold Obligations.TablesStayCanonical
  exact fun s t hs h => (step_maintains h).canonical hs

/-- Settles O60: in RUN the clock is written by an advance alone. -/
theorem siteTimeNeverDecreases : Obligations.SiteTimeNeverDecreases := by
  unfold Obligations.SiteTimeNeverDecreases
  intro s t hrun hpower hrelease h
  obtain rfl | ⟨c, rest, hq, h⟩ := step_cases h
  · exact (Upholds.refl t).clock hrun
  · have hc := exec_upholds h (fun b p hc => hpower b p rest (hc ▸ hq)) fun p hc => hrelease p rest (hc ▸ hq)
    exact ((pending_upholds s rest).trans hc).clock hrun

/-! ### A free line is quiet (R154) -/

theorem quiet_of_busy {s : State} (h : s.link.free = false) : s.quiet := fun hf => by rw [h] at hf; cases hf

/-- A line with a frame in transmission is not free. -/
theorem free_of_sending {s : State} (h : s.link.sending.isSome = true) : s.link.free = false := by
  simp [Link.free, Option.isNone_eq_false_iff.2 h]

/-- The arbiter after a step: nothing where the line is not free or nothing is offered, and else an offered frame starts,
the world's choice among several. -/
theorem afterwards_cases (s : State) :
    (s.afterwards = s ∧ (s.link.free = true → s.offers = [])) ∨
      (s.link.free = true ∧
        ∃ o ∈ s.offers, ∃ w c, s.afterwards = State.startOffer { s with world := w, choices := c } o) := by
  by_cases hf : s.link.free = true
  · cases ho : s.offers with
    | nil => exact .inl ⟨by unfold State.afterwards; rw [if_pos hf, ho], fun _ => rfl⟩
    | cons o rest =>
      obtain ⟨w, c, hc⟩ := choose_eq (rest.length + 1) s
      refine .inr ⟨hf, _, getD_mem o rest (choose (rest.length + 1) s).1, w, c, ?_⟩
      unfold State.afterwards
      rw [if_pos hf, ho, ← hc]
  · exact .inl ⟨afterwards_busy s (Bool.not_eq_true _ ▸ hf), fun h => absurd h hf⟩

/-- After a step the arbiter has started a frame, or nothing is offered on a free line. -/
theorem afterwards_quiet (s : State) : s.afterwards.quiet := by
  obtain ⟨h, hq⟩ | ⟨-, o, ho, w, c, h⟩ := afterwards_cases s
  · rw [h]
    exact hq
  · rw [h]
    exact quiet_of_busy (free_of_sending (startOffer_sending ho))

theorem arbitrate_quiet (s : State) : s.arbitrate.quiet := by
  unfold State.arbitrate
  split
  case isFalse hf => exact quiet_of_busy (Bool.not_eq_true _ ▸ hf)
  case isTrue =>
    split
    · exact fun _ => ‹_›
    · rename_i o rest ho
      exact quiet_of_busy (free_of_sending (startOffer_sending (ho ▸ List.mem_cons_self)))

theorem endTransmission_quiet {s : State} (h : s.quiet) : s.endTransmission.quiet := by
  unfold State.endTransmission
  split
  · exact h
  · exact arbitrate_quiet _

/-- A row that RESET held low stops leaves a line that is not free. -/
theorem live_quiet {s : State} {f : State → State} (h : s.quiet) (hf : (f s).quiet) : (s.live f).quiet := by
  unfold State.live
  split
  · exact h
  · exact hf

/-- A part whose blocks are in their reset states offers nothing. -/
theorem resetBlocks_quiet (s : State) {l : Link} (hh : l.head = none) (hr : l.rejects = []) : (s.resetBlocks l).quiet := by
  intro _
  simp [State.offers, State.resetBlocks, State.reset, Link.replying, hh, hr]

/-- A pulse edge touches neither the link nor anything that is offered. -/
theorem setChannel_quiet {s : State} (h : s.quiet) (c : Nat) (v : Channel) : (s.setChannel c v).quiet := h

/-- Every row leaves the line busy or held, or ends with the arbiter. -/
theorem exec_quiet {c : Instr} {s t : State} (h : exec c s = .next t) (hs : s.quiet) : t.quiet := by
  have next {u : State} (hu : (.next u : Host.Outcome State Fault Refusal) = .next t) (hq : u.quiet) : t.quiet :=
    Host.Outcome.next.inj hu ▸ hq
  have live (f : State → State) : (s.live fun s => (f s).afterwards).quiet := live_quiet hs (afterwards_quiet _)
  cases hreq : c.requestOf with
  | some x =>
    obtain ⟨k, tag, r⟩ := x
    rw [exec_request c k tag r s hreq] at h
    exact next h (live _)
  | none =>
    cases c with
    | powerOn b p =>
      cases b with
      | false => exact next h (resetBlocks_quiet s rfl rfl)
      | true => exact next h (resetBlocks_quiet s rfl rfl)
    | resetAssert => exact next h (quiet_of_busy (by simp [State.assertReset, Link.free]))
    | resetRelease p => exact next h (resetBlocks_quiet s rfl rfl)
    | tick => exact next h (live _)
    | pulseFallingEdge c =>
      refine next h ?_
      unfold State.fallingEdge
      split
      · exact hs
      · split <;> exact setChannel_quiet hs c _
    | pulseRisingEdge c m =>
      refine next h ?_
      unfold State.risingEdge
      split
      · exact hs
      · split <;> exact setChannel_quiet hs c _
    | charError bs ls => exact next h (live _)
    | tooLong len => exact next h (live _)
    | timeout bs => exact next h (live _)
    | frame k tag body crc => exact next h (live _)
    | unknownKind k tag =>
      refine next h (live_quiet hs ?_)
      split
      · exact hs
      · exact afterwards_quiet _
    | transmissionEnd => exact next h (live_quiet hs (endTransmission_quiet hs))
    | streamIntervalExpiry => exact next h (live _)
    | holdAssert => exact next h (quiet_of_busy (by simp [Link.free]))
    | holdDeassert => exact next h (arbitrate_quiet _)
    | retireTaken => exact next h (live _)
    | cutTaken => exact next h (live _)
    | channelSetTaken => exact next h (live _)
    | takeReading => exact next h (live _)
    | chainDecision => exact next h (live _)
    | placement z d => exact next h (live _)
    | assessorTake => exact next h (live _)
    | assessmentCompletion => exact next h (live _)
    | sync => exact next h (live _)
    | _ => cases hreq

/-- Settles O59: every row that can offer a frame on a free line ends with the arbiter. -/
theorem freeLineIsQuiet : Obligations.FreeLineIsQuiet := by
  unfold Obligations.FreeLineIsQuiet
  intro s t hs h
  obtain rfl | ⟨c, rest, -, h⟩ := step_cases h
  · exact hs
  · exact exec_quiet h hs

end Sys2Proof.Machine

end

/-! Steps, resets and power (R18, R145, R157). -/

section

namespace Sys2Proof.Machine

/-- Settles O1: an equation of `step`. -/
theorem stepRunsFrontCommand : Obligations.StepRunsFrontCommand := by
  unfold Obligations.StepRunsFrontCommand
  exact fun _ _ _ => rfl

/-! ### The reset state -/

theorem reset_canonical : State.reset.canonical := ⟨rfl, rfl, rfl⟩

/-- Settles O2: every table is empty, so a number reads as its initial record, and the invariants speak of nothing. -/
theorem resetLeavesTheResetState : Obligations.ResetLeavesTheResetState := by
  unfold Obligations.ResetLeavesTheResetState
  refine ⟨⟨rfl, rfl, fun _ => ⟨rfl, rfl, rfl, rfl, rfl, rfl, rfl, rfl⟩, fun _ => rfl, fun _ => rfl, fun _ => rfl,
    fun _ => ⟨rfl, rfl, rfl, rfl, rfl, rfl⟩, rfl, rfl, rfl, rfl, rfl, rfl, rfl, rfl, rfl, rfl, rfl, rfl, rfl, rfl, rfl⟩,
    ?chains, ?intake, List.nodup_nil, ?waiting, Nat.zero_le _, reset_canonical, fun _ => rfl, Nat.zero_le _,
    Nat.zero_le _, fun _ => rfl⟩
  case chains => intro p hp; cases hp
  case intake => exact ⟨Nat.zero_le _, fun _ => Nat.zero_le _, .nil, fun w hw => by cases hw⟩
  case waiting => intro p hp; cases hp

/-! ### Release of RESET and power-on (R157) -/

/-- A channel that a reset leaves listed is off, with its counts at 0 and its settings those of R43. -/
theorem resetBlocks_channel (s : State) (l : Link) (c : Nat) :
    ∃ low, (s.resetBlocks l).channel c = { Channel.initial with lineLow := low } := by
  unfold State.channel
  cases h : Table.find c (s.resetBlocks l).channels with
  | none => exact ⟨false, rfl⟩
  | some v =>
    obtain ⟨q, -, hq⟩ := List.mem_map.1 (List.mem_of_mem_filter (mem_of_find h))
    obtain rfl : q.2.afterReset = v := congrArg Prod.snd hq
    exact ⟨q.2.lineLow, rfl⟩

/-- Settles O3: both rows are the reset of every block behind a released link. -/
theorem resetReleaseAndPowerOn : Obligations.ResetReleaseAndPowerOn := by
  unfold Obligations.ResetReleaseAndPowerOn
  intro p s
  refine ⟨⟨s.released p, rfl, rfl, rfl, rfl, rfl, rfl, rfl, rfl, rfl, rfl, rfl, rfl, rfl, rfl, fun c => ?_, rfl, rfl, rfl, rfl,
    rfl, rfl⟩, rfl, _, rfl, rfl, rfl, rfl, rfl, rfl, rfl, rfl, rfl, rfl⟩
  obtain ⟨low, h⟩ := resetBlocks_channel s (Link.released (Straps.rate p) (Straps.parity p) s.link.hold) c
  rw [State.released, h]
  exact ⟨rfl, rfl, rfl, rfl, rfl⟩

/-! ### RESET held low (R157) -/

theorem live_low {s : State} (h : s.link.resetLow = true) (f : State → State) : s.live f = s := if_pos h

/-- What a row does while RESET is not low. -/
theorem live_high {s : State} (h : s.link.resetLow = false) (f : State → State) : s.live f = f s := by
  rw [State.live, if_neg (by simp [h])]

/-- Settles O4: every row but those of the pins, of RESET and of power asks for RESET first (`State.live`). -/
theorem resetLowStopsThePart : Obligations.ResetLowStopsThePart := by
  unfold Obligations.ResetLowStopsThePart
  refine ⟨fun s => ⟨s.assertReset, rfl, rfl, rfl, rfl⟩, fun c s hlow hc => ?_⟩
  have stopped (f : State → State) : (.next (s.live f) : Host.Outcome State Fault Refusal) = .next s := by rw [live_low hlow]
  cases hreq : c.requestOf with
  | some x =>
    obtain ⟨k, tag, r⟩ := x
    exact (exec_request c k tag r s hreq).trans (stopped _)
  | none =>
    cases c with
    | powerOn b p => cases hc
    | resetAssert => cases hc
    | resetRelease p => cases hc
    | pulseFallingEdge c => cases hc
    | pulseRisingEdge c m => cases hc
    | holdAssert => cases hc
    | holdDeassert => cases hc
    | tick => exact stopped _
    | charError bs ls => exact stopped _
    | tooLong len => exact stopped _
    | timeout bs => exact stopped _
    | frame k tag body crc => exact stopped _
    | unknownKind k tag => exact stopped _
    | transmissionEnd => exact stopped _
    | streamIntervalExpiry => exact stopped _
    | retireTaken => exact stopped _
    | cutTaken => exact stopped _
    | channelSetTaken => exact stopped _
    | takeReading => exact stopped _
    | chainDecision => exact stopped _
    | placement z d => exact stopped _
    | assessorTake => exact stopped _
    | assessmentCompletion => exact stopped _
    | sync => exact stopped _
    | _ => cases hreq

end Sys2Proof.Machine

end

/-! The transmit arbiter (R154, R155) and the Stream Unit's frames (R137 to R142). -/

section

namespace Sys2Proof.Machine

/-! ### When the arbiter starts a frame (R154, R155) -/

theorem arbitrate_busy {s : State} (h : s.link.free = false) : s.arbitrate = s := by
  rw [State.arbitrate, if_neg (by simp [h])]

theorem arbitrate_idle {s : State} (h : s.offers = []) : s.arbitrate = s := by
  unfold State.arbitrate
  split
  · rw [h]
  · rfl

/-- On a free line the arbiter starts the first of what is offered. -/
theorem arbitrate_first {s : State} {o : Offer} {rest : List Offer} (hf : s.link.free = true) (ho : s.offers = o :: rest) :
    s.arbitrate = s.startOffer o := by
  rw [State.arbitrate, if_pos hf, ho]

theorem afterwards_idle {s : State} (h : s.offers = []) : s.afterwards = s := by
  unfold State.afterwards
  split
  · rw [h]
  · rfl

/-- A single offered frame starts on a free line: there is nothing to choose. -/
theorem afterwards_single {s : State} {o : Offer} (hf : s.link.free = true) (ho : s.offers = [o]) :
    s.afterwards = s.startOffer o := by
  rw [State.afterwards, if_pos hf, ho]
  rfl

theorem free_iff (l : Link) : l.free = true ↔ l.sending = none ∧ l.hold = false ∧ l.resetLow = false := by
  simp [Link.free, and_assoc]

/-- Settles O5: the arbiter asks first whether the line is free, and then what is offered. -/
theorem arbiterWaitsForAFreeLine : Obligations.ArbiterWaitsForAFreeLine := by
  unfold Obligations.ArbiterWaitsForAFreeLine
  refine ⟨fun s => ⟨rfl, ?_, fun o rest hsend hreset ho => ?_⟩, fun s => ⟨?_, fun o => afterwards_single, fun hf ho => ?_,
    afterwards_blocks s⟩⟩
  · rintro (hbusy | hreset | ho)
    · exact congrArg Host.Outcome.next (arbitrate_busy (free_of_sending hbusy))
    · exact congrArg Host.Outcome.next (arbitrate_busy (by simp [Link.free, hreset]))
    · exact congrArg Host.Outcome.next (arbitrate_idle ho)
  · exact congrArg Host.Outcome.next (arbitrate_first ((free_iff _).2 ⟨hsend, rfl, hreset⟩) ho)
  · rintro (hf | ho)
    · exact afterwards_busy s hf
    · exact afterwards_idle ho
  · obtain ⟨-, hnone⟩ | ⟨-, o, hmem, w, c, h⟩ := afterwards_cases s
    · exact absurd (hnone hf) ho
    · exact ⟨o, hmem, w, c, h⟩

/-! ### The end of a transmission and of an interval (R137, R154) -/

/-- The end of a frame's transmission touches the stream alone. -/
theorem afterFrame_eq (s : State) (x : Source) : ∃ st, s.afterFrame x = { s with stream := st } := by
  cases x with
  | reply starts => cases starts <;> exact ⟨_, rfl⟩
  | reject => exact ⟨_, rfl⟩
  | notice => exact ⟨_, rfl⟩
  | streamFrame => exact ⟨_, rfl⟩
  | endFrame => exact ⟨_, rfl⟩

theorem exec_transmissionEnd {s : State} {f : Sending} (hlive : s.link.resetLow = false) (hf : s.link.sending = some f) :
    exec .transmissionEnd s =
      .next (State.afterFrame { s with link := { s.link with sending := none } } f.source).arbitrate := by
  refine congrArg Host.Outcome.next ((live_high hlive _).trans ?_)
  unfold State.endTransmission
  rw [hf]

/-- With HOLD asserted no frame follows the one that ends. -/
theorem exec_transmissionEnd_held {s : State} {f : Sending} (hlive : s.link.resetLow = false) (hhold : s.link.hold = true)
    (hf : s.link.sending = some f) :
    exec .transmissionEnd s = .next (State.afterFrame { s with link := { s.link with sending := none } } f.source) := by
  obtain ⟨st, hst⟩ := afterFrame_eq { s with link := { s.link with sending := none } } f.source
  rw [exec_transmissionEnd hlive hf, hst, arbitrate_busy (by simp [Link.free, hhold])]

/-- Settles O7: the stream's phase follows the source of the frame that ended, and its interval. -/
theorem streamStepsFollowTheirEvents : Obligations.StreamStepsFollowTheirEvents := by
  unfold Obligations.StreamStepsFollowTheirEvents
  refine ⟨fun s f st hlive hhold hf hst => ?_, fun s hlive => ⟨fun st n hst hph => ?_, ?_⟩⟩
  · refine ⟨_, exec_transmissionEnd_held hlive hhold hf, ?_, fun hsrc hph => ?_, fun hsrc hph => ?_, ?_⟩
    · obtain ⟨x, hx⟩ := afterFrame_eq { s with link := { s.link with sending := none } } f.source
      rw [hx]
    · simp [hsrc, State.afterFrame, hst, Stream.replySent, hph]
    · simp [hsrc, State.afterFrame, hst, Stream.frameSent, hph]
    · rintro (hsrc | hsrc | hsrc) <;> simp [hsrc, State.afterFrame, hst]
  · refine congrArg Host.Outcome.next ((live_high hlive _).trans ?_)
    simp [hst, Stream.intervalOver, hph]
  · intro hno
    refine congrArg Host.Outcome.next ((live_high hlive _).trans ?_)
    have hsame : s.stream.map Stream.intervalOver = s.stream := by
      obtain hnone | ⟨st, hst, hph⟩ := hno
      · rw [hnone]
        rfl
      · rw [hst, Option.map_some, Stream.intervalOver]
        split
        · exact absurd ‹_› (hph _)
        · rfl
    rw [hsame]

/-! ### Walking a range of zones (R138, R139) -/

/-- The zone number `k` places after one on a walk: 256 is followed by 1 (R138). -/
def zoneAt (next k : Nat) : Nat := (next + k - 1) % 256 + 1

/-- The places of the defined zones on a walk. -/
def State.definedPlaces (s : State) (next left : Nat) : List Nat :=
  (List.range left).filter fun k => (s.entry (zoneAt next k)).isSome

/-- How many places a walk for `want` zones looks at. -/
def placesLooked (want left : Nat) (places : List Nat) : Nat :=
  if want = 0 then 0 else (places[want - 1]?).elim left (· + 1)

theorem zoneAt_zero {next : Nat} (h1 : 1 ≤ next) (h2 : next ≤ 256) : zoneAt next 0 = next := by
  unfold zoneAt
  omega

theorem zoneAfter_range {next : Nat} (h1 : 1 ≤ next) (h2 : next ≤ 256) : 1 ≤ zoneAfter next ∧ zoneAfter next ≤ 256 := by
  unfold zoneAfter
  split <;> omega

theorem zoneAt_zoneAfter {next : Nat} (h1 : 1 ≤ next) (h2 : next ≤ 256) (k : Nat) :
    zoneAt (zoneAfter next) k = zoneAt next (k + 1) := by
  unfold zoneAt zoneAfter
  split <;> omega

/-- The first place of a walk, and the places after it. -/
theorem definedPlaces_succ (s : State) {next : Nat} (h1 : 1 ≤ next) (h2 : next ≤ 256) (left : Nat) :
    s.definedPlaces next (left + 1) =
      (if (s.entry next).isSome then [0] else []) ++ (s.definedPlaces (zoneAfter next) left).map (· + 1) := by
  unfold State.definedPlaces
  rw [List.range_succ_eq_map, List.filter_cons, zoneAt_zero h1 h2, List.filter_map]
  simp only [Function.comp_def, zoneAt_zoneAfter h1 h2, Nat.succ_eq_add_one]
  split <;> rfl

/-- A walk meets the first `want` defined zones of its range and stops behind the last of them, or at the range's end. -/
theorem walk_eq (s : State) (left : Nat) {next : Nat} (want : Nat) (h1 : 1 ≤ next) (h2 : next ≤ 256) :
    s.walk left next want =
      (((s.definedPlaces next left).take want).map (zoneAt next),
        zoneAt next (placesLooked want left (s.definedPlaces next left)),
        left - placesLooked want left (s.definedPlaces next left)) := by
  induction left generalizing next want with
  | zero =>
    have hlooked : placesLooked want 0 (s.definedPlaces next 0) = 0 := by
      unfold placesLooked
      split <;> rfl
    rw [hlooked, zoneAt_zero h1 h2]
    simp [State.walk, State.definedPlaces]
  | succ left ih =>
    obtain ⟨h1', h2'⟩ := zoneAfter_range h1 h2
    have hmap (l : List Nat) : (l.map (· + 1)).map (zoneAt next) = l.map (zoneAt (zoneAfter next)) := by
      simp [Function.comp_def, zoneAt_zoneAfter h1 h2]
    cases want with
    | zero => simp [State.walk, placesLooked, zoneAt_zero h1 h2]
    | succ want =>
      rw [definedPlaces_succ s h1 h2]
      unfold State.walk
      rw [if_neg (Nat.succ_ne_zero want)]
      by_cases hdef : (s.entry next).isSome
      · rw [if_pos hdef, if_pos hdef, Nat.succ_sub_one, ih want h1' h2']
        have hlooked : placesLooked (want + 1) (left + 1) ([0] ++ (s.definedPlaces (zoneAfter next) left).map (· + 1)) =
            placesLooked want left (s.definedPlaces (zoneAfter next) left) + 1 := by
          cases want with
          | zero => rfl
          | succ want =>
            simp only [placesLooked, if_neg (Nat.succ_ne_zero _), Nat.succ_sub_one, List.singleton_append, List.getElem?_cons_succ,
              List.getElem?_map]
            cases (s.definedPlaces (zoneAfter next) left)[want]? <;> rfl
        rw [hlooked, ← zoneAt_zoneAfter h1 h2, Nat.add_sub_add_right, List.singleton_append, List.take_succ_cons, List.map_cons,
          zoneAt_zero h1 h2, ← List.map_take, hmap]
      · rw [if_neg hdef, if_neg hdef, ih (want + 1) h1' h2']
        have hlooked : placesLooked (want + 1) (left + 1) ([] ++ (s.definedPlaces (zoneAfter next) left).map (· + 1)) =
            placesLooked (want + 1) left (s.definedPlaces (zoneAfter next) left) + 1 := by
          simp only [placesLooked, if_neg (Nat.succ_ne_zero _), List.nil_append, List.getElem?_map]
          cases (s.definedPlaces (zoneAfter next) left)[want + 1 - 1]? <;> rfl
        rw [hlooked, ← zoneAt_zoneAfter h1 h2, Nat.add_sub_add_right, List.nil_append, ← List.map_take, hmap]

end Sys2Proof.Machine

end

/-! The order in which the arbiter starts what is offered, and what each frame carries (R134, R137, R154, R165 to R169). -/

section

namespace Sys2Proof.Machine

/-! ### What is offered (R154) -/

/-- The reply in the head place or a REJECT comes first. -/
theorem offers_answer {s : State} (h : s.link.replying = true ∨ s.link.rejects ≠ []) : ∃ rest, s.offers = .answer :: rest := by
  have hc : (s.link.replying || !s.link.rejects.isEmpty) = true := by simpa using h
  unfold State.offers
  rw [if_pos hc]
  exact ⟨_, rfl⟩

/-- Without a reply and a REJECT a notice comes first. -/
theorem offers_notice {s : State} {e : Nat} {q : List Nat} (hr : s.link.replying = false) (hj : s.link.rejects = [])
    (hq : s.notices.queue = e :: q) : ∃ rest, s.offers = .notice :: rest := by
  simp [State.offers, hr, hj, hq]

/-- Without a reply, a REJECT and a notice the stream's frame is all that may be offered. -/
theorem offers_stream {s : State} (hr : s.link.replying = false) (hj : s.link.rejects = []) (hq : s.notices.queue = []) :
    s.offers = if s.stream.any Stream.offers then [.stream] else [] := by
  simp [State.offers, hr, hj, hq]

/-! ### Starting each kind of frame -/

/-- The reply starts where no REJECT offered before it waits. -/
theorem startAnswer_reply {s : State} {h : Held} {r : Reply} (hh : s.link.head = some ⟨h, some r⟩)
    (hfirst : r.ahead = 0 ∨ s.link.rejects = []) :
    s.startAnswer = State.promote (s.send { kind := r.kind, tag := h.tag, body := r.body } (.reply r.startsStream)) := by
  unfold State.startAnswer
  rw [hh]
  exact if_pos hfirst

/-- A REJECT starts where it was offered before the reply. -/
theorem startAnswer_reject {s : State} {j : Reject} {rest : List Reject} (hj : s.link.rejects = j :: rest)
    (hlater : ∀ h r, s.link.head = some ⟨h, some r⟩ → r.ahead ≠ 0) : s.startAnswer = s.startReject := by
  unfold State.startAnswer
  split
  · rename_i h r hh
    exact if_neg (not_or.2 ⟨hlater h r hh, by simp [hj]⟩)
  · rfl

theorem startReject_eq {s : State} {j : Reject} {rest : List Reject} (hj : s.link.rejects = j :: rest) :
    s.startReject =
      State.send { s with link := { s.link with rejects := rest, head := s.link.head.map Head.rejectGone } } j.frame .reject := by
  unfold State.startReject
  rw [hj]

theorem startNotice_eq {s : State} {e : Nat} {rest : List Nat} (hq : s.notices.queue = e :: rest) :
    s.startNotice = (s.buildNotice e).send (noticeFrame e (s.flagByte e)) .notice := by
  unfold State.startNotice
  rw [hq]

theorem setBlocked_queue (s : State) (e : Nat) (b : Bool) : (s.setBlocked e b).notices.queue = s.notices.queue := by
  unfold State.setBlocked
  split <;> rfl

theorem setBlocked_stream (s : State) (e : Nat) (b : Bool) : (s.setBlocked e b).stream = s.stream := by
  unfold State.setBlocked
  split <;> rfl

/-- The mark of an entry after it was written. -/
theorem blocked_setBlocked (s : State) (e : Nat) (b : Bool) : (s.setBlocked e b).blocked e = b := by
  by_cases h : e = 0 <;> simp [State.blocked, State.setBlocked, h, zone_setZone]

theorem buildNotice_queue (s : State) (e : Nat) : (s.buildNotice e).notices.queue = s.notices.queue.filter (· ≠ e) := by
  unfold State.buildNotice
  dsimp only
  split
  · exact setBlocked_queue _ _ _
  · rfl

theorem buildNotice_stream (s : State) (e : Nat) : (s.buildNotice e).stream = s.stream := by
  unfold State.buildNotice
  dsimp only
  split
  · exact setBlocked_stream _ _ _
  · rfl

/-- A notice blocks its entry in GROUPED mode. -/
theorem buildNotice_blocked (s : State) (e : Nat) :
    (s.buildNotice e).blocked e = if s.settings.noticeMode = .grouped then true else s.blocked e := by
  unfold State.buildNotice
  dsimp only
  split
  · exact blocked_setBlocked _ _ _
  · rfl

/-! ### The stream's frame (R137, R138, R142) -/

/-- The end frame of a stream starts, and the stream is over. -/
def State.startEnd (s : State) (st : Stream) (cause : EndCause) (tail : List Byte) : State :=
  State.send { s with stream := none }
    { kind := 0xC3, tag := 0, body := [byte st.body.code] ++ le 2 st.seq ++ [byte cause.code] ++ le 2 st.sent ++ tail } .endFrame

/-- A stream frame of `count` items starts, and the stream goes on as `body`. -/
def State.startItems (s : State) (st : Stream) (body : StreamBody) (count : Nat) (items : List Byte) : State :=
  State.send { s with stream := some { body := body, phase := .sending, seq := st.seq + 1, sent := st.sent + count } }
    { kind := 0xC2, tag := 0, body := [byte st.body.code] ++ le 2 st.seq ++ [byte count] ++ items } .streamFrame

theorem startStream_eq {s : State} {st : Stream} (h : s.stream = some st) :
    s.startStream = (s.buildStream st).2.2.send (s.buildStream st).1 (s.buildStream st).2.1 := by
  unfold State.startStream
  rw [h]

/-- A stream that ends builds its end frame. -/
theorem buildStream_ending (s : State) {st : Stream} {cause : EndCause} (h : st.phase = .ending cause) :
    s.buildStream st = s.sendEnd st cause [] := by
  unfold State.buildStream
  rw [h]

theorem buildStream_once (s : State) {st : Stream} {next left : Nat} (hp : ∀ cause, st.phase ≠ .ending cause)
    (hb : st.body = .once next left) : s.buildStream st = s.buildWalk st next left := by
  unfold State.buildStream
  split
  · exact absurd ‹_› (hp _)
  · rw [hb]

theorem buildStream_profile (s : State) {st : Stream} {r : NightRef} {left : Nat} {held : Bool}
    (hp : ∀ cause, st.phase ≠ .ending cause) (hb : st.body = .profile r left held) :
    s.buildStream st = s.buildProfile st r left held := by
  unfold State.buildStream
  split
  · exact absurd ‹_› (hp _)
  · rw [hb]

/-- A ONCE roll call whose range holds no defined zone any more is DONE. -/
theorem startStream_walkDone {s : State} {st : Stream} {next left : Nat} (hst : s.stream = some st)
    (hp : ∀ cause, st.phase ≠ .ending cause) (hb : st.body = .once next left) (h1 : 1 ≤ next) (h2 : next ≤ 256)
    (hnone : s.definedPlaces next left = []) : s.startStream = s.startEnd st .done [] := by
  have hw := walk_eq s left 8 h1 h2
  rw [hnone, List.take_nil, List.map_nil] at hw
  rw [startStream_eq hst, buildStream_once s hp hb, State.buildWalk, hw]
  rfl

/-- A ONCE roll call sends the summaries of the next defined zones of its range, up to 8. -/
theorem startStream_walk {s : State} {st : Stream} {next left : Nat} (hst : s.stream = some st)
    (hp : ∀ cause, st.phase ≠ .ending cause) (hb : st.body = .once next left) (h1 : 1 ≤ next) (h2 : next ≤ 256)
    (hsome : s.definedPlaces next left ≠ []) :
    s.startStream =
      s.startItems st
        (.once (zoneAt next (placesLooked 8 left (s.definedPlaces next left))) (left - placesLooked 8 left (s.definedPlaces next left)))
        (min 8 (s.definedPlaces next left).length)
        (((s.definedPlaces next left).take 8).flatMap fun k => (s.zone (zoneAt next k)).summary (zoneAt next k)) := by
  have hw := walk_eq s left 8 h1 h2
  obtain ⟨k, ks, hks⟩ := List.exists_cons_of_ne_nil hsome
  rw [startStream_eq hst, buildStream_once s hp hb, State.buildWalk, hw, hks, List.take_succ_cons, List.map_cons]
  have hlen : min 7 ks.length + 1 = min 8 (ks.length + 1) := by omega
  simp only [State.sendItems, State.startItems, streamFrame, State.summaries, List.length_cons, List.length_map, List.length_take,
    List.flatMap_cons, List.flatMap_map, hlen]
  rfl

/-- A PROFILE whose night is gone ends GONE. -/
theorem startStream_gone {s : State} {st : Stream} {r : NightRef} {left : Nat} {held : Bool} (hst : s.stream = some st)
    (hp : ∀ cause, st.phase ≠ .ending cause) (hb : st.body = .profile r left held) (h : held = false ∨ s.night r = none) :
    s.startStream = s.startEnd st .gone [] := by
  rw [startStream_eq hst, buildStream_profile s hp hb]
  unfold State.buildProfile
  split
  · rename_i n hn
    obtain hh | hh := h
    · cases hh
    · rw [hh] at hn
      cases hn
  · rfl

theorem buildProfile_held {s : State} {r : NightRef} {n : Night} (hn : s.night r = some n) (st : Stream) (left : Nat) :
    s.buildProfile st r left true =
      if left = 0 then s.sendEnd st .done (le 1 n.state.code ++ le 2 n.lateCount)
      else s.sendItems st (.profile r (left - min left (slotsPerFrame n.required.length)) true)
        (min left (slotsPerFrame n.required.length))
        (n.slotItems s.slotSeconds left (min left (slotsPerFrame n.required.length))) := by
  unfold State.buildProfile
  rw [hn]

/-- A zone summary's bytes, its codes written out (R138, R161, R166). -/
theorem summary_eq (z : Nat) (v : Zone) :
    v.summary z =
      le 2 z ++
        [match v.entry with
          | none => (0 : Byte)
          | some e => if e.active then 2 else 1] ++
        [byte v.verdict.state.code] ++ [byte ((if v.flags.result then 1 else 0) + (if v.flags.verdict then 2 else 0) +
          (if v.flags.skip then 4 else 0) + (if v.flags.survey then 8 else 0) + if v.verdict.last.isSome then 128 else 0)] ++
        leSigned v.verdict.baseline ++ [byte v.verdict.count] ++ leSigned ((v.verdict.last.map (·.nnf)).getD 0) ++
        le 2 ((v.verdict.last.map (·.day)).getD 0) ++ [byte (descriptorCode v.night0)] ++ [byte (descriptorCode v.night1)] ++
        [byte (descriptorCode v.night2)] := by
  have hrun : le 1 (runStateCode v.entry) = [match v.entry with
      | none => (0 : Byte)
      | some e => if e.active then 2 else 1] := by
    cases v.entry with
    | none => rfl
    | some e => cases h : e.active <;> simp [runStateCode, h] <;> rfl
  unfold Zone.summary
  rw [hrun]
  rfl

/-! ### The arbiter after a transmission (R154) -/

/-- A REJECT that comes first is the frame that starts; every block stays as it is. -/
theorem arbitrate_reject {u : State} {j : Reject} {rest : List Reject} (hfree : u.link.free = true)
    (hj : u.link.rejects = j :: rest) (hlater : ∀ h r, u.link.head = some ⟨h, some r⟩ → r.ahead ≠ 0) :
    u.arbitrate.link.sending =
        some { frame := { kind := 0xC0, tag := j.tag, body := [byte j.cause.code] }, source := .reject } ∧
      u.arbitrate.link.rejects = rest ∧ SameBlocks u u.arbitrate ∧ u.arbitrate.notices = u.notices ∧
      u.arbitrate.stream = u.stream := by
  obtain ⟨os, ho⟩ := offers_answer (s := u) (.inr (by simp [hj]))
  have h : u.arbitrate = u.startReject := (arbitrate_first hfree ho).trans (startAnswer_reject hj hlater)
  have hblocks := startReject_blocks u
  rw [startReject_eq hj] at h hblocks
  rw [h]
  exact ⟨rfl, rfl, hblocks, rfl, rfl⟩

/-- A notice that comes first is built of its entry's flags as they stand, and its entry leaves the queue. -/
theorem arbitrate_notice {u : State} {e : Nat} {rest : List Nat} (hfree : u.link.free = true) (hr : u.link.replying = false)
    (hj : u.link.rejects = []) (hq : u.notices.queue = e :: rest) :
    u.arbitrate.link.sending =
        some { frame := { kind := 0xC1, tag := 0, body := le 2 e ++ [byte (u.flagByte e)] }, source := .notice } ∧
      u.arbitrate.notices.queue = u.notices.queue.filter (· ≠ e) ∧
      u.arbitrate.blocked e = (if u.settings.noticeMode = .grouped then true else u.blocked e) ∧
      SameBlocks u u.arbitrate ∧ u.arbitrate.stream = u.stream := by
  obtain ⟨os, ho⟩ := offers_notice hr hj hq
  have h : u.arbitrate = u.startNotice := arbitrate_first hfree ho
  have hblocks := startNotice_blocks u
  rw [startNotice_eq hq] at h hblocks
  rw [h]
  exact ⟨rfl, buildNotice_queue u e, buildNotice_blocked u e, hblocks, buildNotice_stream u e⟩

/-- The stream's frame starts where nothing else is offered. -/
theorem arbitrate_stream {u : State} (hfree : u.link.free = true) (hr : u.link.replying = false) (hj : u.link.rejects = [])
    (hq : u.notices.queue = []) (hst : u.stream.any Stream.offers = true) : u.arbitrate = u.startStream :=
  arbitrate_first hfree ((offers_stream hr hj hq).trans (if_pos hst))

/-! ### What the end of a transmission leaves (R154) -/

theorem afterFrame_link (s : State) (x : Source) : (s.afterFrame x).link = s.link := by
  obtain ⟨st, h⟩ := afterFrame_eq s x
  rw [h]

theorem afterFrame_notices (s : State) (x : Source) : (s.afterFrame x).notices = s.notices := by
  obtain ⟨st, h⟩ := afterFrame_eq s x
  rw [h]

theorem afterFrame_settings (s : State) (x : Source) : (s.afterFrame x).settings = s.settings := by
  obtain ⟨st, h⟩ := afterFrame_eq s x
  rw [h]

theorem afterFrame_flagByte (s : State) (x : Source) (e : Nat) : (s.afterFrame x).flagByte e = s.flagByte e := by
  obtain ⟨st, h⟩ := afterFrame_eq s x
  rw [h]
  rfl

theorem afterFrame_blocked (s : State) (x : Source) (e : Nat) : (s.afterFrame x).blocked e = s.blocked e := by
  obtain ⟨st, h⟩ := afterFrame_eq s x
  rw [h]
  rfl

/-- Settles O6: the offers stand in the arbiter's order, and each frame is built from the part as it stands. -/
theorem arbiterPrecedence : Obligations.ArbiterPrecedence := by
  unfold Obligations.ArbiterPrecedence
  refine ⟨fun s f hlive hf => ⟨fun hhold => exec_transmissionEnd_held hlive hhold hf, fun hhold => ?_⟩,
    ⟨fun s => ⟨fun h => ?_, fun h hh => ?_⟩, fun c kind tag r s hreq hs => ?_⟩, fun s st hst => ?_⟩
  · rw [exec_transmissionEnd hlive hf]
    have hlink := afterFrame_link { s with link := { s.link with sending := none } } f.source
    have hnotices := afterFrame_notices { s with link := { s.link with sending := none } } f.source
    have hsettings := afterFrame_settings { s with link := { s.link with sending := none } } f.source
    have hflags := afterFrame_flagByte { s with link := { s.link with sending := none } } f.source
    have hblocked := afterFrame_blocked { s with link := { s.link with sending := none } } f.source
    generalize State.afterFrame { s with link := { s.link with sending := none } } f.source = u at *
    have hfree : u.link.free = true := by
      rw [hlink]
      exact (free_iff _).2 ⟨rfl, hhold, hlive⟩
    have hhead : u.link.head = s.link.head := by rw [hlink]
    have hrejects : u.link.rejects = s.link.rejects := by rw [hlink]
    have hreplying : u.link.replying = s.link.replying := by
      rw [hlink]
      rfl
    have hqueue : u.notices.queue = s.notices.queue := by rw [hnotices]
    rw [← hrejects, ← hhead, ← hreplying, ← hqueue]
    refine ⟨fun h r hh hfirst => ?_, fun j rest hj hlater => ⟨_, rfl, arbitrate_reject hfree hj hlater⟩,
      fun e rest hj hr hq => ⟨_, rfl, ?_⟩, fun hj hr hq => ⟨fun st hst ho => ?_, fun hno => ?_⟩⟩
    · obtain ⟨os, ho⟩ := offers_answer (s := u) (.inl (by simp [Link.replying, hh]))
      exact congrArg Host.Outcome.next ((arbitrate_first hfree ho).trans (startAnswer_reply hh hfirst))
    · have hnotice := arbitrate_notice hfree hr hj hq
      rw [hsettings, hflags, hblocked] at hnotice
      exact hnotice
    · exact congrArg Host.Outcome.next (arbitrate_stream hfree hr hj hq (by rw [hst]; exact ho))
    · exact congrArg Host.Outcome.next (arbitrate_idle ((offers_stream hr hj hq).trans (if_neg (by simp [hno]))))
  · unfold State.promote
    rw [h]
  · unfold State.promote
    rw [hh]
  · rw [exec_request c kind tag r s hreq]
    refine congrArg Host.Outcome.next ((live_high hs.1 _).trans ?_)
    exact congrArg State.afterwards (deliver_free (s := { s with link := { s.link with line := .idle, rx := .hunting } }) hs.2.1)
  · intro ends sends
    refine ⟨fun cause hph => ?_, fun hph => ⟨fun next left hb h1 h2 => ⟨startStream_walkDone hst hph hb h1 h2, fun hsome => ?_⟩,
      fun r left held hb => ⟨startStream_gone hst hph hb, fun n hheld hn => ⟨fun h0 => ?_, fun h0 => ?_⟩⟩⟩, fun z => ?_⟩
    · rw [startStream_eq hst, buildStream_ending s hph]
      rfl
    · refine (startStream_walk hst hph hb h1 h2 hsome).trans ?_
      have hlooked : placesLooked 8 left (s.definedPlaces next left) =
          (match (s.definedPlaces next left)[7]? with
            | none => left
            | some k => k + 1) := by
        cases h : (s.definedPlaces next left)[7]? <;> simp [placesLooked, h]
      rw [hlooked]
      rfl
    · rw [startStream_eq hst, buildStream_profile s hph hb, hheld, buildProfile_held hn, if_pos h0]
      rfl
    · rw [startStream_eq hst, buildStream_profile s hph hb, hheld, buildProfile_held hn, if_neg h0]
      rfl
    · exact summary_eq z (s.zone z)

end Sys2Proof.Machine

end

/-! The change flags, skip records and exception records (R66, R87, R131 to R135). -/

section

namespace Sys2Proof.Machine

/-! ### Flags of an entry (R131) -/

theorem Flags.get_set (f : Flags) (g h : ZoneFlag) : (f.set g).get h = if h = g then true else f.get h := by
  cases g <;> cases h <;> rfl

theorem Flags.set_of_get {f : Flags} {g : ZoneFlag} (h : f.get g = true) : f.set g = f := by
  obtain ⟨a, b, c, d⟩ := f
  cases g <;> obtain rfl := h <;> rfl

/-! ### The queue a raised flag leaves (R131 to R133) -/

/-- The notice queue behind an entry one of whose flags went from clear to set. -/
def State.queueWith (s : State) (e : Nat) : List Nat :=
  if s.queued e || (s.settings.noticeMode = .grouped && s.blocked e) then s.notices.queue else s.notices.queue ++ [e]

theorem joinQueue_eq (s : State) (e : Nat) : s.joinQueue e = { s with notices := { s.notices with queue := s.queueWith e } } := by
  unfold State.joinQueue State.queueWith
  split <;> rfl

theorem joinQueue_zone (s : State) (e z : Nat) : (s.joinQueue e).zone z = s.zone z := by
  rw [joinQueue_eq]
  rfl

/-- Raising a set flag changes nothing, raising a clear one sets it and lets its entry join the queue. -/
theorem raise_of_set {s : State} {z : Nat} {f : ZoneFlag} (h : (s.zone z).flags.get f = true) : s.raise z f = s := if_pos h

theorem raise_of_clear {s : State} {z : Nat} {f : ZoneFlag} (h : (s.zone z).flags.get f = false) :
    s.raise z f = (s.setZone z { s.zone z with flags := (s.zone z).flags.set f }).joinQueue z := if_neg (by simp [h])

theorem raise_zone (s : State) (z : Nat) (f : ZoneFlag) (y : Nat) :
    (s.raise z f).zone y = if y = z then { s.zone z with flags := (s.zone z).flags.set f } else s.zone y := by
  cases h : (s.zone z).flags.get f with
  | true =>
    rw [raise_of_set h, Flags.set_of_get h]
    split
    · subst_vars
      rfl
    · rfl
  | false => rw [raise_of_clear h, joinQueue_zone, zone_setZone]

/-- Raising a zone's flag touches the zone table and the notice queue alone. -/
theorem raise_eq (s : State) (z : Nat) (f : ZoneFlag) :
    s.raise z f =
      { s with zones := (s.raise z f).zones, notices := { s.notices with queue := (s.raise z f).notices.queue } } := by
  cases h : (s.zone z).flags.get f with
  | true => rw [raise_of_set h]
  | false =>
    rw [raise_of_clear h, joinQueue_eq]
    rfl

theorem queueWith_setZone_flags {s : State} {z : Nat} (hz : z ≠ 0) (f : Flags) :
    (s.setZone z { s.zone z with flags := f }).queueWith z =
      if s.notices.queue.contains z || (s.settings.noticeMode = .grouped && (s.zone z).blocked) then s.notices.queue
      else s.notices.queue ++ [z] := by
  have hblocked : (s.setZone z { s.zone z with flags := f }).blocked z = (s.zone z).blocked := by
    rw [State.blocked, if_neg hz, zone_setZone, if_pos rfl]
  rw [State.queueWith, hblocked]
  rfl

theorem raise_queue_of_clear {s : State} {z : Nat} {f : ZoneFlag} (hz : z ≠ 0) (h : (s.zone z).flags.get f = false) :
    (s.raise z f).notices.queue =
      if s.notices.queue.contains z || (s.settings.noticeMode = .grouped && (s.zone z).blocked) then s.notices.queue
      else s.notices.queue ++ [z] := by
  rw [raise_of_clear h, joinQueue_eq]
  exact queueWith_setZone_flags hz _

theorem raiseMeter_of_clear {s : State} (h : s.notices.meter = false) :
    s.raiseMeter = { s with notices := { s.notices with meter := true, queue := s.queueWith 0 } } := by
  rw [State.raiseMeter, if_neg (by simp [h]), joinQueue_eq]
  rfl

theorem raisePool_of_clear {s : State} (h : s.notices.pool = false) :
    s.raisePool = { s with notices := { s.notices with pool := true, queue := s.queueWith 0 } } := by
  rw [State.raisePool, if_neg (by simp [h]), joinQueue_eq]
  rfl

/-- Settles O18: by whether the flag was set before. -/
theorem raisedFlagsQueueTheEntry : Obligations.RaisedFlagsQueueTheEntry := by
  unfold Obligations.RaisedFlagsQueueTheEntry
  refine ⟨fun s z f hz => ⟨raise_of_set, fun hclear => ⟨?_, fun g hg => ?_, ?_, fun y hy => ?_, ?_, ?_⟩⟩,
    fun s => ⟨fun h => if_pos h, fun h => if_pos h, raiseMeter_of_clear, raisePool_of_clear⟩⟩
  · rw [raise_zone, if_pos rfl, Flags.get_set, if_pos rfl]
  · rw [raise_zone, if_pos rfl, Flags.get_set, if_neg hg]
  · rw [raise_zone, if_pos rfl]
  · rw [raise_zone, if_neg hy]
  · rw [← raise_queue_of_clear hz hclear]
    exact congrArg State.notices (raise_eq s z f)
  · have hn : (s.raise z f).notices = { s.notices with queue := (s.raise z f).notices.queue } :=
      congrArg State.notices (raise_eq s z f)
    rw [hn]
    exact raise_eq s z f

/-! ### Skips and exceptions (R66, R87) -/

theorem raisePool_eq (s : State) :
    s.raisePool = { s with notices := { s.notices with pool := true, queue := s.raisePool.notices.queue } } := by
  cases h : s.notices.pool with
  | true =>
    rw [show s.raisePool = s from if_pos h, ← h]
  | false => rw [raisePool_of_clear h]

/-- The zone a skip was recorded against, and every other. -/
theorem recordSkip_zone (s : State) (z : Nat) (cause : SkipCause) (day y : Nat) :
    (s.recordSkip z cause day).zone y =
      if y = z then
        { s.zone z with skip := some (nextSkip (s.zone z).skip (s.zone z).flags.skip cause day),
                        flags := (s.zone z).flags.set .skip }
      else s.zone y := by
  have hrecorded : ((s.setZone z { s.zone z with skip := some (nextSkip (s.zone z).skip (s.zone z).flags.skip cause day) }).raise z
      .skip).zone y =
      if y = z then
        { s.zone z with skip := some (nextSkip (s.zone z).skip (s.zone z).flags.skip cause day),
                        flags := (s.zone z).flags.set .skip }
      else s.zone y := by
    rw [raise_zone, zone_setZone, zone_setZone, if_pos rfl]
    split <;> rfl
  unfold State.recordSkip
  simp only
  split
  · rw [raisePool_eq]
    exact hrecorded
  · exact hrecorded

/-- A recorded skip touches the zone table, the notice queue and, for cause POOL, the POOL flag. -/
theorem recordSkip_eq (s : State) (z : Nat) (cause : SkipCause) (day : Nat) :
    s.recordSkip z cause day =
      { s with zones := (s.recordSkip z cause day).zones
               notices := { s.notices with queue := (s.recordSkip z cause day).notices.queue
                                           pool := if cause = .pool then true else s.notices.pool } } := by
  unfold State.recordSkip
  simp only
  split
  · rw [raisePool_eq, raise_eq]
    rfl
  · rw [raise_eq]
    rfl

/-- Settles O19: from the record a skip or an exception leaves, by whether it was set before. -/
theorem skipsAndExceptionsAreCounted : Obligations.SkipsAndExceptionsAreCounted := by
  unfold Obligations.SkipsAndExceptionsAreCounted
  refine ⟨fun s z cause day _ => ?_, fun s i m code time hm => ⟨fun hnone => ?_, fun r hr => ?_⟩⟩
  · have hzone := recordSkip_zone s z cause day
    have heq := recordSkip_eq s z cause day
    have hpool : (s.recordSkip z cause day).notices.pool = if cause = .pool then true else s.notices.pool :=
      congrArg (fun t => t.notices.pool) heq
    refine ⟨?_, fun h => ?_, fun h => ?_, fun h => ?_, fun h r hr => ?_, ?_, fun y hy => ?_, ?_⟩
    · rw [hzone, if_pos rfl]
      rfl
    · rw [hpool, if_pos h]
    · rw [hpool, if_neg h]
    · rw [hzone, if_pos rfl, h]
      rfl
    · rw [hzone, if_pos rfl, h, hr]
      rfl
    · rw [hzone, if_pos rfl]
    · rw [hzone, if_neg hy]
    · have hn := congrArg State.notices heq
      rw [hn]
      exact heq
  · unfold State.recordException
    rw [hm]
    simp only [hnone]
    rfl
  · unfold State.recordException
    rw [hm]
    simp only [hr]
    rfl

end Sys2Proof.Machine

end

/-! The receive buffer (R151, R152), and the requests on the part as a whole (R21, R22, R30, R91, R135, R156, R158). -/

section

namespace Sys2Proof.Machine

/-! ### Request rows past step 1 of R2 -/

/-- A request row on a ready part whose fields are in their ranges: the outcome of its own rule. -/
theorem exec_runKind {c : Instr} {s : State} {k tag : Byte} {r : Request} {st : Status} {f : List Byte} {t : State} {b : Bool}
    (hc : c.requestOf = some (k, tag, r)) (hs : s.ready) (hr : requestInRange r = true)
    (h : (s.executing ⟨k, tag, r⟩).runKind r = .done st f t b) : exec c s = .next (t.answer ⟨k, tag, r⟩ st f b) :=
  exec_done hc hs ((runRequest_inRange hr).trans h)

/-! ### The receive buffer and the answer (R151, R152) -/

theorem deliver_second {s : State} {h : Held} (h1 : s.link.head.isSome) (h2 : s.link.second = none) :
    s.deliver h = { s with link := { s.link with second := some h } } := by
  obtain ⟨x, hx⟩ := Option.isSome_iff_exists.1 h1
  unfold State.deliver
  rw [hx, h2]

theorem deliver_full {s : State} {h : Held} (h1 : s.link.head.isSome) (h2 : s.link.second.isSome) :
    s.deliver h = s.addReject .overrun h.tag := by
  obtain ⟨x, hx⟩ := Option.isSome_iff_exists.1 h1
  obtain ⟨y, hy⟩ := Option.isSome_iff_exists.1 h2
  unfold State.deliver
  rw [hx, hy]

theorem startNotice_head (s : State) : s.startNotice.link.head = s.link.head := by
  unfold State.startNotice
  split
  · rfl
  · unfold State.buildNotice State.setBlocked
    dsimp only
    repeat' split
    all_goals rfl

theorem buildStream_link (s : State) (st : Stream) : (s.buildStream st).2.2.link = s.link := by
  unfold State.buildStream State.buildWalk State.buildProfile
  repeat' split
  all_goals rfl

theorem startStream_head (s : State) : s.startStream.link.head = s.link.head := by
  unfold State.startStream
  split
  · rfl
  · rename_i st _
    exact (congrArg Link.head (buildStream_link s st) :)

/-- Whatever the arbiter starts, the reply of the head place is in transmission or still in the head place. -/
theorem startOffer_gives {s : State} {h : Held} {r : Reply} (hh : s.link.head = some ⟨h, some r⟩) (o : Offer) :
    (s.startOffer o).gives r.kind h.tag r.body := by
  cases o with
  | answer =>
    by_cases hfirst : r.ahead = 0 ∨ s.link.rejects = []
    · refine .inl ⟨r.startsStream, ?_⟩
      rw [State.startOffer, startAnswer_reply hh hfirst, promote_sending]
      rfl
    · obtain ⟨hahead, hrejects⟩ := not_or.1 hfirst
      obtain ⟨j, rest, hj⟩ := List.exists_cons_of_ne_nil hrejects
      have hlater : ∀ h' r', s.link.head = some ⟨h', some r'⟩ → r'.ahead ≠ 0 := fun h' r' h1 => by
        obtain ⟨rfl, rfl⟩ : h' = h ∧ r' = r := by simpa [hh, eq_comm] using h1
        exact hahead
      refine .inr ⟨h, { r with ahead := r.ahead - 1 }, ?_, rfl, rfl, rfl⟩
      rw [State.startOffer, startAnswer_reject hj hlater, startReject_eq hj]
      simp only [State.send, hh]
      rfl
  | notice => exact .inr ⟨h, r, (startNotice_head s).trans hh, rfl, rfl, rfl⟩
  | stream => exact .inr ⟨h, r, (startStream_head s).trans hh, rfl, rfl, rfl⟩

theorem answer_gives (s : State) (h : Held) (status : Status) (fields : List Byte) (starts : Bool) :
    (s.answer h status fields starts).gives (replyKind h.kind status) h.tag (replyBody status fields) := by
  unfold State.answer
  obtain ⟨he, -⟩ | ⟨-, o, -, w, c, he⟩ := afterwards_cases { s with link := s.link.reply h status fields starts }
  · rw [he]
    exact .inr ⟨h, _, rfl, rfl, rfl, rfl⟩
  · rw [he]
    exact startOffer_gives (s := { s with link := s.link.reply h status fields starts, world := w, choices := c }) rfl o

theorem replyKind_known {kind : Byte} {status : Status} (h : status ≠ .unknownKind) : replyKind kind status = kind + 0x80 := if_neg h

theorem replyBody_refused {status : Status} {fields : List Byte} (h : status ≠ .ok) : replyBody status fields = [byte status.code] := by
  rw [replyBody, if_neg h]
  rfl

/-- Settles O11: by which places are taken, and by what the arbiter starts after the answer. -/
theorem receiveBufferAndAnswers : Obligations.ReceiveBufferAndAnswers := by
  unfold Obligations.ReceiveBufferAndAnswers
  refine ⟨fun c kind tag r s hc hlive => ⟨fun h1 h2 => ?_, fun h1 h2 => ?_⟩,
    fun s h status fields starts h2 => ⟨answer_blocks s h status fields starts h2, fun hu hok => ?_, fun hok => ?_, fun hu => ?_⟩⟩
  · rw [exec_request c kind tag r s hc]
    refine congrArg Host.Outcome.next ((live_high hlive _).trans (congrArg State.afterwards ?_))
    exact deliver_second (s := { s with link := { s.link with line := .idle, rx := .hunting } }) h1 h2
  · rw [exec_request c kind tag r s hc]
    refine congrArg Host.Outcome.next ((live_high hlive _).trans (congrArg State.afterwards ?_))
    exact deliver_full (s := { s with link := { s.link with line := .idle, rx := .hunting } }) h1 h2
  · have hgives := answer_gives s h status fields starts
    rw [replyKind_known hu, replyBody_refused hok] at hgives
    exact hgives
  · subst hok
    exact answer_gives s h .ok fields starts
  · subst hu
    exact answer_gives s h .unknownKind fields starts

/-! ### IDENTIFY and POOL STATUS (R91, R156) -/

/-- Settles O14: the two rows report what the state holds and keep it. -/
theorem identifyAndPoolStatusReport : Obligations.IdentifyAndPoolStatusReport := by
  unfold Obligations.IdentifyAndPoolStatusReport
  refine ⟨fun tag s hs => exec_runKind rfl hs rfl rfl, fun tag s hs => ⟨exec_runKind rfl hs rfl rfl, fun hpool => ?_⟩⟩
  unfold State.poolBounded at hpool
  unfold State.freeSlots Config.pool
  omega

/-! ### ACK (R135) -/

theorem setBlocked_zone (s : State) (e : Nat) (b : Bool) (z : Nat) :
    (s.setBlocked e b).zone z = if z = e ∧ e ≠ 0 then { s.zone e with blocked := b } else s.zone z := by
  unfold State.setBlocked
  by_cases he : e = 0
  · rw [if_pos he, if_neg (fun h => h.2 he)]
    rfl
  · rw [if_neg he, zone_setZone]
    simp [he]

theorem setBlocked_notices (s : State) (e : Nat) (b : Bool) :
    (s.setBlocked e b).notices = { s.notices with blocked := if e = 0 then b else s.notices.blocked } := by
  unfold State.setBlocked
  split <;> rfl

theorem setBlocked_eq (s : State) (e : Nat) (b : Bool) :
    s.setBlocked e b = { s with zones := (s.setBlocked e b).zones, notices := (s.setBlocked e b).notices } := by
  unfold State.setBlocked
  split <;> rfl

theorem clearFlags_zone (s : State) (e f z : Nat) :
    (s.clearFlags e f).zone z =
      if z = e ∧ e ≠ 0 then
        { s.zone e with
          flags := { result := (s.zone e).flags.result && !f.testBit 0, verdict := (s.zone e).flags.verdict && !f.testBit 1,
                     skip := (s.zone e).flags.skip && !f.testBit 2, survey := (s.zone e).flags.survey && !f.testBit 3 } }
      else s.zone z := by
  unfold State.clearFlags
  by_cases he : e = 0
  · rw [if_pos he, if_neg (fun h => h.2 he)]
    rfl
  · rw [if_neg he]
    simp only [zone_setZone]
    simp [he]

theorem clearFlags_notices (s : State) (e f : Nat) :
    (s.clearFlags e f).notices =
      { s.notices with meter := if e = 0 then s.notices.meter && !f.testBit 4 else s.notices.meter
                       pool := if e = 0 then s.notices.pool && !f.testBit 5 else s.notices.pool } := by
  unfold State.clearFlags
  split <;> rfl

theorem clearFlags_eq (s : State) (e f : Nat) :
    s.clearFlags e f = { s with zones := (s.clearFlags e f).zones, notices := (s.clearFlags e f).notices } := by
  unfold State.clearFlags
  split <;> rfl

theorem retireEntry_kept {s : State} {e : Nat} (h : s.flagByte e ≠ 0) : s.retireEntry e = s := if_neg h

theorem retireEntry_gone {s : State} {e : Nat} (h : s.flagByte e = 0) :
    s.retireEntry e =
      { s with notices := { s.notices with queue := s.notices.queue.filter (· ≠ e) } }.setBlocked e false := if_pos h

/-- Retiring an entry changes its blocked mark alone among the zones. -/
theorem retireEntry_zone (s : State) (e z : Nat) :
    (s.retireEntry e).zone z = s.zone z ∨ (z = e ∧ (s.retireEntry e).zone z = { s.zone z with blocked := false }) := by
  by_cases h : s.flagByte e = 0
  · rw [retireEntry_gone h, setBlocked_zone]
    by_cases hz : z = e ∧ e ≠ 0
    · obtain ⟨rfl, -⟩ := id hz
      rw [if_pos hz]
      exact .inr ⟨rfl, rfl⟩
    · rw [if_neg hz]
      exact .inl rfl
  · rw [retireEntry_kept h]
    exact .inl rfl

theorem retireEntry_eq (s : State) (e : Nat) :
    s.retireEntry e = { s with zones := (s.retireEntry e).zones, notices := (s.retireEntry e).notices } := by
  by_cases h : s.flagByte e = 0
  · rw [retireEntry_gone h, setBlocked_eq]
  · rw [retireEntry_kept h]

theorem retireEntry_notices (s : State) (e : Nat) :
    (s.retireEntry e).notices.meter = s.notices.meter ∧ (s.retireEntry e).notices.pool = s.notices.pool := by
  by_cases h : s.flagByte e = 0
  · rw [retireEntry_gone h, setBlocked_notices]
    exact ⟨rfl, rfl⟩
  · rw [retireEntry_kept h]
    exact ⟨rfl, rfl⟩

/-- Retiring an entry leaves its flags. -/
theorem retireEntry_flagByte (s : State) (e : Nat) : (s.retireEntry e).flagByte e = s.flagByte e := by
  obtain ⟨hmeter, hpool⟩ := retireEntry_notices s e
  have hzone : ((s.retireEntry e).zone e).flags = (s.zone e).flags := by
    obtain h | ⟨-, h⟩ := retireEntry_zone s e e <;> rw [h]
  rw [State.flagByte, State.flagByte, Notices.code, Notices.code, hmeter, hpool, hzone]

theorem acknowledge_eq (s : State) (e f : Nat) :
    s.acknowledge e f = { s with zones := (s.acknowledge e f).zones, notices := (s.acknowledge e f).notices } := by
  unfold State.acknowledge
  rw [retireEntry_eq, clearFlags_eq]

/-- Settles O17: the flags cleared, and then the entry retired where none is left. -/
theorem ackClearsTheFlagsItNames : Obligations.AckClearsTheFlagsItNames := by
  unfold Obligations.AckClearsTheFlagsItNames
  intro tag entry flags s hs hr h
  refine ⟨(s.executing h).acknowledge entry flags, exec_runKind rfl hs hr rfl, ?_⟩
  have hrest := acknowledge_eq (s.executing h) entry flags
  have hzone := retireEntry_zone ((s.executing h).clearFlags entry flags) entry
  have hcleared := clearFlags_zone (s.executing h) entry flags
  have hnotices := clearFlags_notices (s.executing h) entry flags
  obtain ⟨hmeter, hpool⟩ := retireEntry_notices ((s.executing h).clearFlags entry flags) entry
  have hbyte := retireEntry_flagByte ((s.executing h).clearFlags entry flags) entry
  refine ⟨fun he => ⟨?_, ?_, ?_⟩, fun he => ⟨?_, ?_⟩, fun h0 => ?_, fun h0 => ?_, fun z hz => ?_, fun z => ?_, ?_⟩
  · have hflags : (((s.executing h).acknowledge entry flags).zone entry).flags =
        (((s.executing h).clearFlags entry flags).zone entry).flags := by
      obtain h | ⟨-, h⟩ := hzone entry <;> exact (congrArg Zone.flags h :)
    rw [hflags, hcleared, if_pos ⟨rfl, he⟩]
    rfl
  · exact hmeter.trans (by rw [hnotices]; exact if_neg he)
  · exact hpool.trans (by rw [hnotices]; exact if_neg he)
  · exact hmeter.trans (by rw [hnotices]; exact if_pos he)
  · exact hpool.trans (by rw [hnotices]; exact if_pos he)
  · have hgone := retireEntry_gone (hbyte.symm.trans h0)
    refine ⟨(congrArg (fun t => t.notices.queue) hgone).trans ((setBlocked_queue _ _ _).trans ?_),
      (congrArg (fun t => t.blocked entry) hgone).trans (blocked_setBlocked _ _ _)⟩
    rw [hnotices]
    rfl
  · have hkept := retireEntry_kept (fun h => h0 (hbyte.trans h))
    refine ⟨(congrArg (fun t => t.notices.queue) hkept).trans (by rw [hnotices]; rfl),
      (congrArg (fun t => t.blocked entry) hkept).trans ?_⟩
    rw [State.blocked, hnotices, hcleared]
    by_cases he : entry = 0
    · simp [State.blocked, he]
    · simp [State.blocked, he]
  · obtain h | ⟨h, -⟩ := hzone z
    · exact h.trans ((hcleared z).trans (if_neg fun h => hz h.1))
    · exact absurd h hz
  · have hsame : { ((s.executing h).clearFlags entry flags).zone z with flags := (s.zone z).flags } = s.zone z := by
      rw [hcleared]
      split
      · rename_i hz
        obtain ⟨rfl, -⟩ := hz
        rfl
      · rfl
    have hrec : { ((s.executing h).acknowledge entry flags).zone z with flags := (s.zone z).flags, blocked := (s.zone z).blocked } =
        s.zone z := by
      obtain h | ⟨-, h⟩ := hzone z
      · rw [State.acknowledge, h, ← hsame]
      · rw [State.acknowledge, h, ← hsame]
    exact ⟨(congrArg Zone.entry hrec :), (congrArg Zone.verdict hrec :), (congrArg Zone.night0 hrec :), (congrArg Zone.night1 hrec :),
      (congrArg Zone.night2 hrec :), (congrArg Zone.skip hrec :)⟩
  · rw [hrest]
    exact ⟨rfl, rfl, rfl, rfl, rfl, rfl, rfl, rfl, rfl, rfl⟩

end Sys2Proof.Machine

end

/-! SYSTEM SET, FLUSH and CLOCK SET (R21, R22, R30, R133, R158). -/

section

namespace Sys2Proof.Machine

/-! ### FLUSH (R158) -/

theorem flush_regularHeld (s : State) : s.flush.regularHeld = 0 := by
  refine List.sum_eq_zero fun n hn => ?_
  obtain ⟨p, hp, rfl⟩ := List.mem_map.1 hn
  obtain ⟨q, -, rfl⟩ := List.mem_map.1 (List.mem_of_mem_filter hp)
  rfl

theorem flush_surveyHeld (s : State) : s.flush.surveyHeld = 0 := by
  refine List.sum_eq_zero fun n hn => ?_
  obtain ⟨p, hp, rfl⟩ := List.mem_map.1 hn
  obtain ⟨q, -, rfl⟩ := List.mem_map.1 (List.mem_of_mem_filter hp)
  rfl

/-- Settles O16: every table rewritten in place, every queue emptied. -/
theorem flushEmptiesAndKeeps : Obligations.FlushEmptiesAndKeeps := by
  unfold Obligations.FlushEmptiesAndKeeps
  intro tag s hs hc h
  refine ⟨(s.executing h).flush, exec_runKind rfl hs rfl rfl, fun z => find_map_filter _ Zone.withoutNights rfl z _ hc.1,
    fun i => find_map (fun m : Meter => { m with chain := [] }) i _, rfl, rfl, rfl, ?_, fun hst => ?_, fun st next left hst hb => ?_,
    fun st hst hb => ?_, rfl, rfl, rfl, rfl, rfl, rfl⟩
  · rw [State.freeSlots, flush_regularHeld, flush_surveyHeld]
    rfl
  · exact congrArg (Option.bind · Stream.flush) hst
  · refine (congrArg (Option.bind · Stream.flush) hst).trans ?_
    rw [Option.bind_some, Stream.flush, hb]
  · have hflush : (s.executing h).flush.stream = st.flush := congrArg (Option.bind · Stream.flush) hst
    rw [hflush, Stream.flush]
    cases hbody : st.body with
    | once next left => exact ⟨_, rfl, rfl, rfl, rfl, rfl⟩
    | step next left => exact absurd hbody (hb next left)
    | profile r left held => exact ⟨_, rfl, rfl, rfl, rfl, rfl⟩

/-! ### SYSTEM SET (R30, R133) -/

/-- A slot length set to what it is changes nothing, so an absent one may stand for the present value. -/
theorem setSlotLength_same (s : State) : s.setSlotLength s.settings.slotLength = s := if_pos rfl

theorem setNoticeMode_same (s : State) : s.setNoticeMode s.settings.noticeMode = s := by
  refine if_neg fun ⟨h, k⟩ => ?_
  rw [h] at k
  cases k

/-- The fields of SYSTEM SET are set one after another, an absent one to what it is. -/
theorem applySystem_eq (s : State) (f : SystemSpec) {n : Nat} {m : NoticeMode} (hn : f.slotLength.getD s.settings.slotLength = n)
    (hm : (f.noticeMode.bind NoticeMode.ofCode).getD s.settings.noticeMode = m)
    (hsame : (s.setSlotLength n).settings.noticeMode = s.settings.noticeMode) :
    s.applySystem f =
      { (s.setSlotLength n).setNoticeMode m with
        settings := { ((s.setSlotLength n).setNoticeMode m).settings with
          reserve := f.reserve.getD ((s.setSlotLength n).setNoticeMode m).settings.reserve
          interval := f.interval.getD ((s.setSlotLength n).setNoticeMode m).settings.interval } } := by
  have h1 : (match f.slotLength with | none => s | some n => s.setSlotLength n) = s.setSlotLength n := by
    cases h : f.slotLength with
    | none =>
      rw [h] at hn
      rw [← hn]
      exact (setSlotLength_same s).symm
    | some k =>
      rw [h] at hn
      rw [← hn]
      rfl
  have h2 : (match f.noticeMode.bind NoticeMode.ofCode with
      | none => s.setSlotLength n
      | some m => (s.setSlotLength n).setNoticeMode m) = (s.setSlotLength n).setNoticeMode m := by
    cases h : f.noticeMode.bind NoticeMode.ofCode with
    | none =>
      rw [h] at hm
      rw [← hm, Option.getD_none, ← hsame]
      exact (setNoticeMode_same _).symm
    | some k =>
      rw [h] at hm
      rw [← hm]
      rfl
  rw [← h2, ← h1]
  rfl

theorem setSlotLength_eq (s : State) (n : Nat) :
    s.setSlotLength n =
      { s with settings := { s.settings with slotLength := n }, zones := (s.setSlotLength n).zones } := by
  unfold State.setSlotLength
  split
  · subst_vars
    rfl
  · rfl

theorem setSlotLength_zone (s : State) (n z : Nat) :
    (s.setSlotLength n).zone z =
      { s.zone z with entry := (s.zone z).entry.map fun e => if n = s.settings.slotLength then e else { e with window := none } } := by
  unfold State.setSlotLength
  by_cases h : n = s.settings.slotLength
  · simp [h]
  · simp only [if_neg h]
    have hfind := find_map Zone.dropWindow z s.zones
    unfold State.zone
    simp only [hfind]
    cases Table.find z s.zones <;> rfl

/-- A change from GROUPED to SINGLE takes every blocked mark. -/
theorem setNoticeMode_zone (s : State) (m : NoticeMode) (hc : Table.wf (some Zone.initial) s.zones = true) (z : Nat) :
    (s.setNoticeMode m).zone z =
      { s.zone z with blocked := (s.zone z).blocked && !(s.settings.noticeMode = .grouped && m = .single : Bool) } := by
  unfold State.setNoticeMode
  by_cases h : s.settings.noticeMode = .grouped ∧ m = .single
  · simp only [h.1, h.2]
    exact (find_map_filter Zone.initial (fun v => { v with blocked := false }) rfl z s.zones hc).trans (by simp [State.zone])
  · simp only [if_neg h]
    have hno : (s.settings.noticeMode = .grouped && m = .single : Bool) = false := by simpa using h
    rw [hno, Bool.not_false, Bool.and_true]
    rfl

theorem setNoticeMode_eq (s : State) (m : NoticeMode) :
    s.setNoticeMode m =
      { s with
        settings := { s.settings with noticeMode := m }, zones := (s.setNoticeMode m).zones
        notices :=
          { s.notices with
            blocked := s.notices.blocked && !(s.settings.noticeMode = .grouped && m = .single : Bool) } } := by
  unfold State.setNoticeMode
  by_cases h : s.settings.noticeMode = .grouped ∧ m = .single
  · simp only [h.1, h.2]
    simp [State.unblockAll]
  · have hno : (s.settings.noticeMode = .grouped && m = .single : Bool) = false := by simpa using h
    simp only [if_neg h]
    rw [hno, Bool.not_false, Bool.and_true]

/-- The code of a notice mode in its range, or its absence. -/
theorem noticeMode_ofCode {o : Option Nat} (h : optBetween 0 1 o = true) (m : NoticeMode) :
    (o.bind NoticeMode.ofCode).getD m = if o = some 0 then .grouped else if o = some 1 then .single else m := by
  cases o with
  | none => rfl
  | some n =>
    match n with
    | 0 => rfl
    | 1 => rfl
    | k + 2 => simp [optBetween, between] at h

/-- What SYSTEM SET's fields in their ranges leave. -/
theorem applySystem_spec (s : State) (f : SystemSpec) {m : NoticeMode} (hc : s.canonical)
    (hm : (f.noticeMode.bind NoticeMode.ofCode).getD s.settings.noticeMode = m) :
    ∃ zs, s.applySystem f =
        { s with
          settings := { slotLength := f.slotLength.getD s.settings.slotLength, reserve := f.reserve.getD s.settings.reserve,
                        noticeMode := m, interval := f.interval.getD s.settings.interval }
          zones := zs
          notices := { s.notices with
            blocked := s.notices.blocked && !(s.settings.noticeMode = .grouped && m = .single : Bool) } } ∧
      ∀ z, (s.applySystem f).zone z =
        { s.zone z with
          entry := (s.zone z).entry.map fun e =>
            if f.slotLength.getD s.settings.slotLength = s.settings.slotLength then e else { e with window := none },
          blocked := (s.zone z).blocked && !(s.settings.noticeMode = .grouped && m = .single : Bool) } := by
  have hslot := setSlotLength_eq s (f.slotLength.getD s.settings.slotLength)
  have hmode : (s.setSlotLength (f.slotLength.getD s.settings.slotLength)).settings.noticeMode = s.settings.noticeMode := by rw [hslot]
  have hwf := ((setSlotLength_upholds s (f.slotLength.getD s.settings.slotLength)).canonical hc).1
  have hzones := setNoticeMode_zone _ m hwf
  have hnotice := setNoticeMode_eq (s.setSlotLength (f.slotLength.getD s.settings.slotLength)) m
  have heq := applySystem_eq s f rfl hm hmode
  refine ⟨((s.setSlotLength (f.slotLength.getD s.settings.slotLength)).setNoticeMode m).zones, ?_, fun z => ?_⟩
  · rw [heq, hnotice, hslot]
  · have hz : (s.applySystem f).zone z = ((s.setSlotLength (f.slotLength.getD s.settings.slotLength)).setNoticeMode m).zone z := by
      rw [heq]
      rfl
    rw [hz, hzones, setSlotLength_zone, hmode]

/-- Settles O15: the fields set one after another, or in RUN the refusal. -/
theorem systemSetSetsWhatItCarries : Obligations.SystemSetSetsWhatItCarries := by
  unfold Obligations.SystemSetSetsWhatItCarries
  intro tag f s hs hr hc h mode now
  have hr2 := hr
  simp only [systemInRange, Bool.and_eq_true] at hr2
  obtain ⟨⟨⟨-, -⟩, hmode⟩, -⟩ := hr2
  refine ⟨fun hallowed => ?_, fun hrun hcarries => ?_⟩
  · obtain ⟨zs, heq, hzone⟩ := applySystem_spec (s.executing h) f hc (noticeMode_ofCode hmode s.settings.noticeMode)
    have hran : (s.executing h).runKind (.systemSet f) =
        .ok ((s.executing h).applySystem f).settings.fields ((s.executing h).applySystem f) := by
      refine if_neg ?_
      obtain hcold | ⟨h1, h2, h3⟩ := hallowed
      · simp [hcold]
      · simp [h1, h2, h3]
    refine ⟨(s.executing h).applySystem f, (exec_runKind (r := .systemSet f) rfl hs hr hran).trans ?_, ?_, hzone, ?_, ?_⟩
    · rw [heq]
      rfl
    · rw [heq]
      rfl
    · rw [heq]
      rfl
    · rw [heq]
      exact ⟨rfl, rfl, rfl, rfl, rfl, rfl, rfl, rfl, rfl⟩
  · refine exec_runKind (r := .systemSet f) rfl hs hr (if_pos ?_)
    simpa [hrun, or_assoc] using hcarries

/-! ### CLOCK SET (R21, R22) -/

/-- Settles O20: form by form. -/
theorem clockSetByItsForms : Obligations.ClockSetByItsForms := by
  unfold Obligations.ClockSetByItsForms
  intro tag time weekday s hs hr h x now
  have hrun (hclock : s.clock.running = true) : x.runKind (.clockSet time weekday) = x.runClockRun time weekday := if_pos hclock
  have hcold (hclock : s.clock.running = false) : x.runKind (.clockSet time weekday) = x.runClockCold time weekday :=
    if_neg (by simp [x, hclock])
  have hsame (hd : weekday = none ∨ weekday = some s.clock.epoch) : ¬ weekday.any (fun d => d ≠ x.clock.epoch) = true := by
    obtain rfl | rfl := hd
    · exact Bool.false_ne_true
    · exact fun h => absurd rfl (of_decide_eq_true h)
  refine ⟨fun hclock => ⟨fun ht => ?_, fun ht hd => ?_, fun t d ht hd => ?_⟩,
    fun hclock => ⟨fun ⟨d, hd, hne⟩ => ?_, fun hd => ⟨fun ht => ?_, fun t ht => ⟨fun hlt => ?_, fun hlt => ?_⟩⟩⟩⟩
  · subst ht
    exact exec_runKind rfl hs hr (hcold hclock)
  · obtain ⟨t, rfl⟩ := Option.isSome_iff_exists.1 ht
    subst hd
    exact exec_runKind rfl hs hr (hcold hclock)
  · subst ht hd
    exact exec_runKind rfl hs hr (hcold hclock)
  · subst hd
    exact exec_runKind rfl hs hr ((hrun hclock).trans (if_pos (decide_eq_true hne)))
  · refine exec_runKind rfl hs hr ((hrun hclock).trans ((if_neg (hsame hd)).trans ?_))
    obtain rfl | rfl := ht
    · rfl
    · exact (if_neg (by simp [x])).trans (if_pos rfl)
  · subst ht
    exact exec_runKind rfl hs hr ((hrun hclock).trans ((if_neg (hsame hd)).trans (if_pos hlt)))
  · subst ht
    have hadv : (x.advance t).clock = { s.clock with time := t } := (advance_frame x t).clock
    refine (exec_runKind rfl hs hr ((hrun hclock).trans ((if_neg (hsame hd)).trans
      ((if_neg (Nat.not_lt.2 hlt.le)).trans (if_neg (Nat.ne_of_gt hlt)))))).trans ?_
    rw [State.clockFields, State.weekday, hadv]
    simp only [hclock]
    rfl

end Sys2Proof.Machine

end

/-! The zone requests and the survey requests (R3 to R10, R31, R32, R34, R85, R88). -/

section

namespace Sys2Proof.Machine

/-- A request row on a defined zone whose fields are in their ranges: the outcome its rule gives for the zone's entry. -/
theorem exec_onZone {c : Instr} {s : State} {k tag : Byte} {r : Request} {z : Nat} {f : State → ZoneEntry → Ran} {e : ZoneEntry}
    {st : Status} {fs : List Byte} {t : State} {b : Bool} (hc : c.requestOf = some (k, tag, r)) (hs : s.ready)
    (hr : requestInRange r = true) (hk : ∀ u : State, u.runKind r = onZone u z (f u)) (he : s.entry z = some e)
    (h : f (s.executing ⟨k, tag, r⟩) e = .done st fs t b) : exec c s = .next (t.answer ⟨k, tag, r⟩ st fs b) :=
  exec_runKind hc hs hr ((hk _).trans ((onZone_some (s := s.executing ⟨k, tag, r⟩) he _).trans h))

theorem not_cold {s : State} (hrun : s.clock.running = true) (h : Held) : ¬ (!(s.executing h).clock.running) = true := by simp [hrun]

/-! ### ZONE DEFINE and ZONE UNDEFINE (R3, R6) -/

/-- A zone holds no night when its three descriptors are free. -/
theorem nights_length_ne_zero (z : Nat) (v : Zone) :
    (v.nights z).length ≠ 0 ↔ (v.night0.isSome || v.night1.isSome || v.night2.isSome) = true := by
  unfold Zone.nights
  cases h0 : v.night0 <;> cases h1 : v.night1 <;> cases h2 : v.night2 <;> simp [Zone.night, h0, h1, h2]

/-- Settles O24: the refusals of R3 and R6 in their order. -/
theorem zonesAreDefinedAndUndefined : Obligations.ZonesAreDefinedAndUndefined := by
  unfold Obligations.ZonesAreDefinedAndUndefined
  refine ⟨fun tag z s hs h1 h2 => ⟨fun he => ?_, fun he => ?_⟩,
    fun tag z s e hs h1 h2 he => ⟨fun hstate => ?_, fun hidle halarm hrepair => ⟨fun hbusy => ?_, fun hnamed hheld => ?_⟩⟩⟩
  · exact exec_runKind rfl hs (zoneOk_eq_true h1 h2) (if_neg (by simp [he]))
  · exact exec_runKind rfl hs (zoneOk_eq_true h1 h2) (if_pos he)
  · refine exec_onZone rfl hs (zoneOk_eq_true h1 h2) (fun _ => rfl) he ?_
    obtain hactive | hverdict := hstate
    · exact if_pos hactive
    · split
      · rfl
      · exact if_pos hverdict
  · refine exec_onZone rfl hs (zoneOk_eq_true h1 h2) (fun _ => rfl) he
      ((if_neg (by simp [hidle])).trans ((if_neg (not_or.2 ⟨halarm, hrepair⟩)).trans ?_))
    obtain hnamed | hheld := hbusy
    · exact if_pos hnamed
    · split
      · rfl
      · exact if_pos ((nights_length_ne_zero z _).2 hheld)
  · refine exec_onZone rfl hs (zoneOk_eq_true h1 h2) (fun _ => rfl) he
      ((if_neg (by simp [hidle])).trans ((if_neg (not_or.2 ⟨halarm, hrepair⟩)).trans
        ((if_neg (fun h => Bool.false_ne_true (hnamed.symm.trans h))).trans (if_neg ?_))))
    exact fun h => Bool.false_ne_true (hheld.symm.trans ((nights_length_ne_zero z _).1 h))

/-! ### ZONE START and ZONE STOP (R4, R5, R88) -/

theorem night_eq_of_night0 {v w : Zone} (h0 : v.night0 = w.night0) (h1 : v.night1 = w.night1) (h2 : v.night2 = w.night2) (d : Nat) :
    v.night d = w.night d :=
  match d with
  | 0 => h0
  | 1 => h1
  | 2 => h2
  | _ + 3 => rfl

theorem setEntry_night (s : State) (z : Nat) (e : Option ZoneEntry) (r : NightRef) : (s.setEntry z e).night r = s.night r :=
  night_setZone_same s z { s.zone z with entry := e } (fun d => night_eq_of_night0 rfl rfl rfl d) r

theorem releaseNight_zone (s : State) (r : NightRef) (z : Nat) :
    (s.releaseNight r).zone z = if z = r.zone then (s.zone r.zone).setNight r.desc none else s.zone z :=
  zone_setZone s r.zone z _

theorem stopOne_zone (s : State) (z : Nat) (x : State) (d : Nat) {y : Nat} (hy : y ≠ z) : (stopOne s z x d).zone y = x.zone y := by
  unfold stopOne
  split
  · rfl
  · rw [recordSkip_zone, if_neg hy, releaseNight_zone, if_neg hy]

theorem foldl_stopOne_zone (s : State) (z : Nat) (ds : List Nat) (x : State) {y : Nat} (hy : y ≠ z) :
    (ds.foldl (stopOne s z) x).zone y = x.zone y := by
  induction ds generalizing x with
  | nil => rfl
  | cons d rest ih => exact (ih _).trans (stopOne_zone s z x d hy)

theorem stopOne_assess (s : State) (z : Nat) (x : State) (d : Nat) : (stopOne s z x d).assess = x.assess := by
  unfold stopOne
  split
  · rfl
  · rw [recordSkip_eq]
    rfl

theorem foldl_stopOne_assess (s : State) (z : Nat) (ds : List Nat) (x : State) : (ds.foldl (stopOne s z) x).assess = x.assess := by
  induction ds generalizing x with
  | nil => rfl
  | cons d rest ih => exact (ih _).trans (stopOne_assess s z x d)

/-- A stopped night is gone. -/
theorem stopOne_gone {s : State} {z d : Nat} (x : State) {n : Night} (hd : d < 3) (hn : s.night { zone := z, desc := d } = some n) :
    (stopOne s z x d).night { zone := z, desc := d } = none := by
  unfold stopOne
  rw [hn]
  simp only
  rw [recordSkip_night, releaseNight_night _ _ _ hd, if_pos rfl]

/-- After the unfrozen nights were stopped one after another, they are gone and the others are as they were. -/
theorem foldl_stopOne_night (s : State) (z : Nat) (ds : List Nat) (x : State) (hds : ∀ d ∈ ds, d < 3) (e : Nat) :
    (ds.foldl (stopOne s z) x).night { zone := z, desc := e } =
      if e ∈ ds ∧ (s.night { zone := z, desc := e }).isSome then none else x.night { zone := z, desc := e } := by
  induction ds generalizing x with
  | nil => simp
  | cons d rest ih =>
    rw [List.foldl_cons, ih _ fun d hd => hds d (List.mem_cons_of_mem _ hd)]
    by_cases hed : e = d
    · subst hed
      cases hn : s.night { zone := z, desc := e } with
      | none =>
        have hsame : stopOne s z x e = x := by
          unfold stopOne
          rw [hn]
        simp [hsame]
      | some n => simp [stopOne_gone x (hds e List.mem_cons_self) hn]
    · rw [stopOne_night s z x d e (hds d List.mem_cons_self) hed]
      simp [hed]

/-- Settles O25: the refusals of R4 and R5, and the nights ZONE STOP releases in the order the world chooses. -/
theorem zonesStartAndStop : Obligations.ZonesStartAndStop := by
  unfold Obligations.ZonesStartAndStop
  refine ⟨fun tag z s hs h1 h2 => ⟨fun hcold => ?_, fun hrun => ⟨fun he => ?_, fun e he => ⟨fun hno => ?_, fun hidle hw hin => ?_⟩⟩⟩,
    fun tag z s e hs h1 h2 he => ⟨fun hidle => ?_, fun hactive => ?_⟩⟩
  · exact exec_runKind rfl hs (zoneOk_eq_true h1 h2) (if_pos (by simp [hcold]))
  · exact exec_runKind rfl hs (zoneOk_eq_true h1 h2) ((if_neg (not_cold hrun _)).trans (onZone_none (s := s.executing _) he _))
  · refine exec_runKind rfl hs (zoneOk_eq_true h1 h2) ((if_neg (not_cold hrun _)).trans ((onZone_some (s := s.executing _) he _).trans
      (if_pos ?_)))
    obtain h | h | h := hno <;> simp [h]
  · refine exec_runKind rfl hs (zoneOk_eq_true h1 h2) ((if_neg (not_cold hrun _)).trans ((onZone_some (s := s.executing _) he _).trans
      (if_neg ?_)))
    simp [hidle, Option.isSome_iff_ne_none.1 hw, hin]
  · exact exec_onZone rfl hs (zoneOk_eq_true h1 h2) (fun _ => rfl) he (if_pos (by simp [hidle]))
  · refine ⟨State.stopNights ((s.executing ⟨0x0B, tag, .zoneStop z⟩).setEntry z (some { e with active := false })) z,
      exec_onZone rfl hs (zoneOk_eq_true h1 h2) (fun _ => rfl) he (if_neg (by simp [hactive])), ?_⟩
    generalize hx : (s.executing ⟨0x0B, tag, .zoneStop z⟩).setEntry z (some { e with active := false }) = x
    have hnight (r : NightRef) : x.night r = s.night r := by
      rw [← hx, setEntry_night]
      rfl
    have hother (y : Nat) (hy : y ≠ z) : x.zone y = s.zone y := by
      rw [← hx, State.setEntry, zone_setZone, if_neg hy]
      rfl
    have hframe := stopNights_frame x z
    obtain ⟨ds, world, choices, hperm, hstop⟩ := stopNights_spec x z
    have hunfrozen : (x.zone z).unfrozen = [0, 1, 2].filter fun d => (s.night { zone := z, desc := d }).any fun n => !n.frozen :=
      List.filter_congr fun d _ => congrArg (Option.any _) (hnight { zone := z, desc := d })
    have hmem (d : Nat) : d ∈ ds ↔ d < 3 ∧ ∃ n, x.night { zone := z, desc := d } = some n ∧ n.frozen = false :=
      hperm.mem_iff.trans mem_unfrozen
    have hstopOne : stopOne x z = stopOne s z := by
      funext y d
      unfold stopOne
      rw [hnight]
    have hzone : x.zone z = { s.zone z with entry := some { e with active := false } } := by
      rw [← hx, State.setEntry, zone_setZone, if_pos rfl]
      rfl
    refine ⟨?_, fun d hd => ?_, fun y hy => ?_, ?_, ?_, ?_, ?_, ?_, ?_, ?_, ?_, ?_, ds, world, choices, hunfrozen ▸ hperm, ?_⟩
    · exact (hframe.entry z).trans (congrArg Zone.entry hzone :)
    · rw [hstop]
      refine (foldl_stopOne_night x z ds x (fun d hd => ((hmem d).1 hd).1) d).trans ?_
      rw [hnight]
      cases hn : s.night { zone := z, desc := d } with
      | none => simp
      | some n =>
        have hin : d ∈ ds ↔ n.frozen = false := by
          rw [hmem, hnight, hn]
          simp [hd]
        cases hf : n.frozen <;> simp [hin, hf]
    · rw [hstop]
      exact (foldl_stopOne_zone x z ds x hy).trans (hother y hy)
    · exact (hframe.verdict z).trans (congrArg Zone.verdict hzone :)
    · exact hframe.meters.trans (by rw [← hx]; rfl)
    · exact hframe.clock.trans (by rw [← hx]; rfl)
    · exact hframe.settings.trans (by rw [← hx]; rfl)
    · exact hframe.channels.trans (by rw [← hx]; rfl)
    · exact hframe.intake.trans (by rw [← hx]; rfl)
    · rw [hstop]
      exact (foldl_stopOne_assess x z ds x).trans (by rw [← hx]; rfl)
    · exact hframe.link.trans (by rw [← hx]; rfl)
    · exact hframe.pending.trans (by rw [← hx]; rfl)
    · rw [hstop, hstopOne, ← hx]
      rfl

/-! ### ZONE SET WINDOW, ZONE SET ALLOWANCE, ZONE SET TESTS (R7 to R9) -/

theorem duplicateTags_iff (us : List User) : duplicateTags us = true ↔ ¬ (us.map (·.tag)).Nodup := by
  induction us with
  | nil => simp [duplicateTags]
  | cons u rest ih =>
    rw [duplicateTags, Bool.or_eq_true, ih, List.map_cons, List.nodup_cons, not_and_or, not_not]
    simp

/-- Settles O26: the refusals, and the entry each row leaves. -/
theorem zoneSettingsReplaceWhatTheyCarry : Obligations.ZoneSettingsReplaceWhatTheyCarry := by
  unfold Obligations.ZoneSettingsReplaceWhatTheyCarry
  intro tag z s e hs h1 h2 he
  have hz := zoneOk_eq_true h1 h2
  refine ⟨fun f hf => ?_, fun a b us hr => ?_, fun t ht => ?_⟩
  · intro h k d
    have hr : requestInRange (.zoneSetWindow z f) = true := Bool.and_eq_true_iff.2 ⟨hz, hf⟩
    refine ⟨fun hactive => ?_, fun hidle => ⟨fun hbad => ?_, fun hgrid hfit => ?_⟩⟩
    · exact exec_onZone rfl hs hr (fun _ => rfl) he (if_pos hactive)
    · exact exec_onZone rfl hs hr (fun _ => rfl) he ((if_neg (by simp [hidle])).trans (if_pos hbad))
    · exact exec_onZone rfl hs hr (fun _ => rfl) he
        ((if_neg (by simp [hidle])).trans (if_neg (not_or.2 ⟨not_not.2 hgrid, Nat.not_lt.2 hfit⟩)))
  · intro h
    refine ⟨fun hdup => ?_, fun hdup => ?_⟩
    · exact exec_onZone rfl hs hr (fun _ => rfl) he (if_pos ((duplicateTags_iff us).2 hdup))
    · exact exec_onZone rfl hs hr (fun _ => rfl) he (if_neg fun h => (duplicateTags_iff us).1 h hdup)
  · exact exec_onZone rfl hs (Bool.and_eq_true_iff.2 ⟨hz, ht⟩) (fun _ => rfl) he rfl

/-! ### DISTURB (R10, R85) -/

/-- A night under a settle interval that overlaps its window. -/
def Night.disturbed (L : Nat) (p : Span) (n : Night) : Night :=
  if n.start < p.stop ∧ p.start < n.windowEnd L ∧ n.tracked = true ∧ n.quality = .clean then { n with quality := .disturbed } else n

theorem disturbed_eq (L : Nat) (p : Span) (n : Night) : (if n.overlapsSpan L p then n.receive .disturbed else n) = n.disturbed L p := by
  unfold Night.overlapsSpan Night.receive Night.disturbed
  by_cases h1 : n.start < p.stop <;> by_cases h2 : p.start < n.windowEnd L <;> by_cases h3 : n.tracked = true <;>
    by_cases h4 : n.quality = .clean <;> simp [h1, h2, h3, h4]

theorem night_zoneSetNight (v : Zone) (d e : Nat) (n : Option Night) (hd : d < 3) :
    (v.setNight d n).night e = if e = d then n else v.night e := by
  match d, hd with
  | 0, _ => match e with | 0 => rfl | 1 => rfl | 2 => rfl | _ + 3 => rfl
  | 1, _ => match e with | 0 => rfl | 1 => rfl | 2 => rfl | _ + 3 => rfl
  | 2, _ => match e with | 0 => rfl | 1 => rfl | 2 => rfl | _ + 3 => rfl

theorem disturbNight_night (L : Nat) (p : Span) (v : Zone) (d e : Nat) (hd : d < 3) :
    (v.disturbNight L p d).night e = if e = d then (v.night d).map (Night.disturbed L p) else v.night e := by
  unfold Zone.disturbNight
  cases hn : v.night d with
  | none =>
    simp only [Option.map_none]
    split
    · subst_vars
      exact hn
    · rfl
  | some n =>
    simp only [Option.map_some, ← disturbed_eq]
    by_cases h : n.overlapsSpan L p = true
    · rw [if_pos h, if_pos h, night_zoneSetNight v d e _ hd]
    · rw [if_neg h, if_neg h]
      split
      · subst_vars
        exact hn
      · rfl

/-- Marking a descriptor's night leaves everything but the nights. -/
theorem disturbNight_rest (L : Nat) (p : Span) (v : Zone) (d : Nat) : (v.disturbNight L p d).withoutNights = v.withoutNights := by
  unfold Zone.disturbNight
  split
  · rfl
  · split
    · match d with | 0 => rfl | 1 => rfl | 2 => rfl | _ + 3 => rfl
    · rfl

/-- The zone of a widened settle interval, its three nights marked. -/
def Zone.disturbAll (L : Nat) (p : Span) (v : Zone) : Zone := [0, 1, 2].foldl (fun v d => v.disturbNight L p d) v

theorem disturbAll_night (L : Nat) (p : Span) (v : Zone) (d : Nat) (hd : d < 3) :
    (v.disturbAll L p).night d = (v.night d).map (Night.disturbed L p) := by
  match d, hd with
  | 0, _ => simp [Zone.disturbAll, disturbNight_night]
  | 1, _ => simp [Zone.disturbAll, disturbNight_night]
  | 2, _ => simp [Zone.disturbAll, disturbNight_night]

theorem disturbAll_rest (L : Nat) (p : Span) (v : Zone) : (v.disturbAll L p).withoutNights = v.withoutNights :=
  (disturbNight_rest L p _ 2).trans ((disturbNight_rest L p _ 1).trans (disturbNight_rest L p v 0))

theorem widenSettle_some {s : State} {z : Nat} {e : ZoneEntry} (he : s.entry z = some e) (p : Span) :
    s.widenSettle z p =
      s.setZone z (Zone.disturbAll s.slotSeconds (Span.hull e.settle p)
        { s.zone z with entry := some { e with settle := some (Span.hull e.settle p) } }) := by
  unfold State.widenSettle
  rw [he]
  rfl

/-- Settles O27: the interval and the nights of the widened zone. -/
theorem disturbWidensTheSettleInterval : Obligations.DisturbWidensTheSettleInterval := by
  unfold Obligations.DisturbWidensTheSettleInterval
  intro tag z a b s e hs hr he h p
  have hp : p = Span.hull e.settle { start := a, stop := b } := rfl
  refine ⟨fun hle => exec_onZone rfl hs hr (fun _ => rfl) he (if_pos hle), fun hlt => ?_⟩
  refine ⟨(s.executing h).widenSettle z { start := a, stop := b },
    exec_onZone rfl hs hr (fun _ => rfl) he ((if_neg (Nat.not_le.2 hlt)).trans ?_), ?_⟩
  · rw [hp]
    rfl
  · have hwiden : (s.executing h).widenSettle z { start := a, stop := b } =
        (s.executing h).setZone z (Zone.disturbAll s.slotSeconds p { s.zone z with entry := some { e with settle := some p } }) :=
      hp ▸ widenSettle_some (s := s.executing h) he _
    have hrest := disturbAll_rest s.slotSeconds p { s.zone z with entry := some { e with settle := some p } }
    rw [hwiden]
    have hzone (y : Nat) := zone_setZone (s.executing h) z y
      (Zone.disturbAll s.slotSeconds p { s.zone z with entry := some { e with settle := some p } })
    refine ⟨?_, fun d hd => ?_, fun y hy => ?_, ?_, ?_, ?_, ?_, rfl, rfl, rfl, rfl, rfl, rfl, rfl, rfl, rfl, rfl, rfl⟩
    · rw [State.entry, hzone, if_pos rfl]
      exact (congrArg Zone.entry hrest :)
    · rw [State.night, hzone, if_pos rfl, disturbAll_night _ _ _ _ hd]
      exact congrArg _ (night_eq_of_night0 rfl rfl rfl d)
    · rw [hzone, if_neg hy]
      rfl
    · rw [hzone, if_pos rfl]
      exact (congrArg Zone.verdict hrest :)
    · rw [hzone, if_pos rfl]
      exact (congrArg Zone.skip hrest :)
    · rw [hzone, if_pos rfl]
      exact (congrArg Zone.flags hrest :)
    · rw [hzone, if_pos rfl]
      exact (congrArg Zone.blocked hrest :)

/-! ### SURVEY ARM and SURVEY CANCEL (R31, R32, R34) -/

theorem surveyRelations_iff (s : State) (e : ZoneEntry) (f : SurveySpec) :
    s.surveyRelations e f = true ↔
      f.start % s.slotSeconds = 0 ∧ s.clock.time < f.start ∧ f.runLength ≤ f.slots ∧
        f.start + f.slots * s.slotSeconds + 60 * e.delay ≤ 4294967295 := by
  simp only [State.surveyRelations, State.deadlineOf, Bool.and_eq_true, decide_eq_true_iff, and_assoc]
  exact and_congr_right fun _ => and_congr_right fun _ => and_congr_right fun _ => decide_eq_true_iff

/-- Settles O28: the refusals in their order. -/
theorem surveysAreArmedAndCancelled : Obligations.SurveysAreArmedAndCancelled := by
  unfold Obligations.SurveysAreArmedAndCancelled
  refine ⟨fun tag z f replace s e hs hr hrun he => ?_, fun tag z s hs h1 h2 he => ?_⟩
  · intro c h r L deadline
    have hc : c.requestOf = some (0x07, tag, .surveyArm z f replace) := by cases replace <;> rfl
    have hrow {st : Status} {fs : List Byte} {t : State} {b : Bool}
        (hran : (s.executing h).runKind (.surveyArm z f replace) = .done st fs t b) : exec c s = .next (t.answer h st fs b) :=
      exec_runKind hc hs hr hran
    have hnot (hactive : e.active = true) : ¬ (!e.active) = true := by simp [hactive]
    have hold : (s.executing h).night (surveyRef z) = s.night r := rfl
    refine ⟨fun hidle => hrow ?_, fun hactive hreplace hsome => hrow ?_, fun hactive hreplace hfrozen => hrow ?_,
      fun hactive hfree => ⟨fun hbad => hrow ?_, fun hgrid hfuture hfit hdeadline => hrow ?_⟩⟩
    all_goals refine (if_neg (not_cold hrun h)).trans ((onZone_some (s := s.executing h) he _).trans ?_)
    · exact if_pos (by simp [hidle])
    · exact (if_neg (hnot hactive)).trans (if_pos (by simp [hreplace, hold, hsome]))
    · exact (if_neg (hnot hactive)).trans ((if_neg (by simp [hreplace])).trans (if_pos hfrozen))
    all_goals
      have hbusy : ¬ (((s.executing h).night (surveyRef z)).isSome && !replace) = true := by
        rw [hold]
        obtain hnone | ⟨hreplace, -⟩ := hfree
        · simp [hnone]
        · simp [hreplace]
      have hlate : ¬ ((s.executing h).night (surveyRef z)).any Night.frozen = true := by
        rw [hold]
        obtain hnone | ⟨-, hunfrozen⟩ := hfree
        · simp [hnone]
        · simp [hunfrozen]
      refine (if_neg (hnot hactive)).trans ((if_neg hbusy).trans ((if_neg hlate).trans ?_))
    · refine if_pos ?_
      rw [Bool.not_eq_true', ← Bool.not_eq_true, surveyRelations_iff]
      rintro ⟨hgrid, hfuture, hfit, hdeadline⟩
      obtain h | h | h | h := hbad
      · exact h hgrid
      · exact absurd hfuture (Nat.not_lt.2 h)
      · exact absurd hfit (Nat.not_le.2 h)
      · exact absurd hdeadline (Nat.not_le.2 h)
    · refine if_neg ?_
      rw [Bool.not_eq_true', Bool.not_eq_false, surveyRelations_iff]
      exact ⟨hgrid, hfuture, hfit, hdeadline⟩
  · intro h r
    obtain ⟨e, he⟩ := Option.isSome_iff_exists.1 he
    have hrow {st : Status} {fs : List Byte} {t : State} {b : Bool}
        (hran : (match s.night r with
          | none => Ran.refuse .noSuch (s.executing h)
          | some n => if n.frozen then .refuse .late (s.executing h) else .ok [] ((s.executing h).releaseNight r).quiesce) =
            .done st fs t b) : exec (.surveyCancel tag z) s = .next (t.answer h st fs b) :=
      exec_onZone rfl hs (zoneOk_eq_true h1 h2) (fun _ => rfl) he hran
    refine ⟨fun hnone => hrow ?_, fun n hn => ⟨fun hfrozen => hrow ?_, fun hfrozen => hrow ?_⟩⟩
    · rw [hnone]
      rfl
    · rw [hn]
      exact if_pos hfrozen
    · rw [hn]
      exact if_neg (by simp [hfrozen])

end Sys2Proof.Machine

end

/-! The meter requests and CHANNEL SET (R12 to R17, R43, R47, R48, R66 to R70). -/

section

namespace Sys2Proof.Machine

/-! ### METER DEFINE (R13, R14) -/

/-- The lowest free index is free, and every lower one is taken. -/
theorem lowestFree_spec (k : Nat) (t : List (Nat × Meter)) (hwf : Table.wf (none : Option Meter) t = true) (hk : ∀ p ∈ t, k ≤ p.1) :
    k ≤ lowestFree k t ∧ Table.find (lowestFree k t) t = none ∧
      ∀ j, k ≤ j → j < lowestFree k t → (Table.find j t).isSome := by
  induction t generalizing k with
  | nil => exact ⟨le_rfl, rfl, fun j h1 h2 => absurd h1 (Nat.not_le.2 h2)⟩
  | cons p rest ih =>
    obtain ⟨i, m⟩ := p
    simp only [Table.wf, Bool.and_eq_true, List.all_eq_true, decide_eq_true_eq] at hwf
    obtain ⟨⟨hlt, -⟩, hrest⟩ := hwf
    have hki : k ≤ i := hk _ List.mem_cons_self
    unfold lowestFree
    by_cases h : k < i
    · rw [if_pos h]
      refine ⟨le_rfl, find_none_of_lt k _ fun q hq => ?_, fun j h1 h2 => absurd h1 (Nat.not_le.2 h2)⟩
      obtain rfl | hq := List.mem_cons.1 hq
      · exact h
      · exact h.trans (hlt q hq)
    · obtain rfl : k = i := by omega
      rw [if_neg h]
      obtain ⟨hle, hfree, htaken⟩ := ih (k + 1) hrest fun q hq => hlt q hq
      refine ⟨by omega, ?_, fun j h1 h2 => ?_⟩
      · rw [Table.find, if_neg (by omega)]
        exact hfree
      · rw [Table.find]
        by_cases hj : k = j
        · rw [if_pos hj]
          rfl
        · rw [if_neg hj]
          exact htaken j (by omega) h2

theorem namedDefined_eq_false {s : State} {z : Nat} : s.namedDefined z = false ↔ z ≠ 0 ∧ s.entry z = none := by
  simp [State.namedDefined]

theorem boundaryFull_iff {s : State} {z : Nat} : s.boundaryFull z = true ↔ z ≠ 0 ∧ 16 ≤ (s.boundary z).length := by
  simp [State.boundaryFull, Config.boundary]

theorem kind_of_code {k : Nat} (h : k ≤ 2) : ∃ x, MeterKind.ofCode k = some x :=
  match k, h with
  | 0, _ => ⟨_, rfl⟩
  | 1, _ => ⟨_, rfl⟩
  | 2, _ => ⟨_, rfl⟩

theorem modulus_of_code {k : Nat} (h : k ≤ 7) : ∃ x, modulusOfCode k = some x :=
  match k, h with
  | 0, _ => ⟨_, rfl⟩
  | 1, _ => ⟨_, rfl⟩
  | 2, _ => ⟨_, rfl⟩
  | 3, _ => ⟨_, rfl⟩
  | 4, _ => ⟨_, rfl⟩
  | 5, _ => ⟨_, rfl⟩
  | 6, _ => ⟨_, rfl⟩
  | 7, _ => ⟨_, rfl⟩

theorem scale_of_code {k : Nat} (h : k ≤ 4) : ∃ x, scaleOfCode k = some x :=
  match k, h with
  | 0, _ => ⟨_, rfl⟩
  | 1, _ => ⟨_, rfl⟩
  | 2, _ => ⟨_, rfl⟩
  | 3, _ => ⟨_, rfl⟩
  | 4, _ => ⟨_, rfl⟩

theorem meterCodes_inRange {f : MeterSpec} (h : meterInRange f = true) : f.kind ≤ 2 ∧ f.modulus ≤ 7 ∧ f.scale ≤ 4 := by
  simp only [meterInRange, between, Bool.and_eq_true, decide_eq_true_eq] at h
  omega

/-- Settles O29: the refusals in their order, and the lowest free index. -/
theorem meterDefineTakesTheLowestIndex : Obligations.MeterDefineTakesTheLowestIndex := by
  unfold Obligations.MeterDefineTakesTheLowestIndex
  intro tag f s hs hr hc h undefinedZone boundaryFull
  have hrow {st : Status} {fs : List Byte} {t : State} {b : Bool} (hran : (s.executing h).runMeterDefine f = .done st fs t b) :
      exec (.meterDefine tag f) s = .next (t.answer h st fs b) := exec_runKind rfl hs hr hran
  have hundefined : (!(s.executing h).namedDefined f.upstream || !(s.executing h).namedDefined f.downstream) = true ↔ undefinedZone := by
    simp only [Bool.or_eq_true, Bool.not_eq_true', namedDefined_eq_false, executing_entry, undefinedZone]
  have hfull : ((s.executing h).boundaryFull f.upstream || (s.executing h).boundaryFull f.downstream) = true ↔ boundaryFull := by
    simp only [Bool.or_eq_true, boundaryFull_iff, executing_boundary, boundaryFull]
  refine ⟨fun hu => hrow (if_pos (hundefined.2 hu)), fun hu => ⟨fun hdup => hrow ?_, fun htag => ⟨fun hno => hrow ?_,
    fun hroom hb => ⟨fun ⟨c, hch, hbound⟩ => hrow ?_, fun hfree => ?_⟩⟩⟩⟩
  · exact (if_neg (mt hundefined.1 hu)).trans (if_pos hdup)
  · have hnew : ¬ ((s.executing h).meterByTag f.tag).isSome = true := by simp [htag]
    refine (if_neg (mt hundefined.1 hu)).trans ((if_neg hnew).trans ?_)
    by_cases hmeters : 1024 ≤ s.meters.length
    · exact if_pos hmeters
    · exact (if_neg hmeters).trans (if_pos (hfull.2 (hno.resolve_left hmeters)))
  all_goals
    have hnew : ¬ ((s.executing h).meterByTag f.tag).isSome = true := by simp [htag]
    have hmeters : ¬ Config.meters ≤ (s.executing h).meters.length := Nat.not_le.2 hroom
  · exact (if_neg (mt hundefined.1 hu)).trans ((if_neg hnew).trans ((if_neg hmeters).trans ((if_neg (mt hfull.1 hb)).trans
      (if_pos (by simp [hch, hbound])))))
  · obtain ⟨hkind, hmodulus, hscale⟩ := meterCodes_inRange hr
    obtain ⟨kind, hkind⟩ := kind_of_code hkind
    obtain ⟨modulus, hmodulus⟩ := modulus_of_code hmodulus
    obtain ⟨scale, hscale⟩ := scale_of_code hscale
    obtain ⟨-, hlowest, htaken⟩ := lowestFree_spec 0 s.meters hc.2.1 fun _ _ => Nat.zero_le _
    refine ⟨lowestFree 0 s.meters, kind, modulus, scale, hlowest, fun j hj => htaken j (Nat.zero_le j) hj, hkind, hmodulus, hscale,
      hrow ?_⟩
    have hunbound : ¬ f.channel.any (fun c => ((s.executing h).boundMeter c).isSome) = true := by
      cases hch : f.channel with
      | none => simp
      | some c => simp [hfree c hch]
    refine (if_neg (mt hundefined.1 hu)).trans ((if_neg hnew).trans ((if_neg hmeters).trans ((if_neg (mt hfull.1 hb)).trans
      ((if_neg hunbound).trans ?_))))
    rw [Meter.defined, hkind, hmodulus, hscale]
    rfl

/-! ### What the Chain Unit takes (R15, R16, R47, R69, R70) -/

/-- A request that the Chain Unit takes between applications is answered with what its taking gives. -/
theorem takeWaiting_done {s : State} {wanted : Request → Bool} {h : Held} {st : Status} {fs : List Byte} {t : State} {b : Bool}
    (hh : s.link.head = some { held := h, reply := none }) (hw : wanted h.request = true)
    (hchain : s.chain = .idle ∨ ∃ w, s.chain = .inHand w) (ht : s.takeKind h.request = .done st fs t b) :
    (s.takeWaiting wanted).afterwards = t.answer h st fs b := by
  have hwaiting : s.link.waiting wanted = some h := by
    unfold Link.waiting
    rw [hh]
    exact if_pos hw
  have hbetween : s.chain.betweenApplications = true := by
    obtain h | ⟨w, h⟩ := hchain <;> rw [h] <;> rfl
  unfold State.takeWaiting
  rw [hwaiting]
  simp only [hbetween, if_pos, ht]
  rfl

/-- During an application the Chain Unit takes no request. -/
theorem takeWaiting_applying {s : State} {a : Application} (h : s.chain = .applying a) (wanted : Request → Bool) :
    s.takeWaiting wanted = s := by
  unfold State.takeWaiting
  split
  · rfl
  · rw [h]
    rfl

/-- A request row whose request waits for the Chain Unit. -/
theorem exec_wait {c : Instr} {s : State} {k tag : Byte} {r : Request} (hc : c.requestOf = some (k, tag, r)) (hs : s.ready)
    (hr : requestInRange r = true) (h : (s.executing ⟨k, tag, r⟩).runKind r = .wait) :
    exec c s = .next (s.executing ⟨k, tag, r⟩).afterwards := by
  rw [exec_request c k tag r s hc, request_wait hs ((runRequest_inRange hr).trans h)]

theorem cutMeter_some {s : State} {i : Nat} {m : Meter} (h : s.meter i = some m) (t : Nat) :
    s.cutMeter i t = s.putMeter i { m with cut := some t, chain := [] } := by
  unfold State.cutMeter
  rw [h]

/-- The reading in hand of a removed meter is discarded, its application not begun. -/
theorem discardOf_eq {s : State} (hchain : s.chain = .idle ∨ ∃ w, s.chain = .inHand w) (i : Nat) :
    s.chain.discardOf i = if s.inHand.any (fun w => w.meter = i) then .idle else s.chain := by
  obtain h | ⟨w, h⟩ := hchain
  · simp [State.inHand, h, ChainUnit.discardOf]
  · simp [State.inHand, h, ChainUnit.discardOf]

theorem removeMeter_eq {s : State} (hchain : s.chain = .idle ∨ ∃ w, s.chain = .inHand w) (i : Nat) :
    s.removeMeter i =
      State.quiesce
        { s with
          meters := s.meters.filter fun p => p.1 ≠ i
          intake := { s.intake with queue := s.intake.queue.filter fun w => w.meter ≠ i }
          chain := if s.inHand.any (fun w => w.meter = i) then .idle else s.chain } := by
  have hqueue : (s.intake.queue.filter fun w => w.meter ≠ i) = s.intake.queue.filter fun w => !decide (w.meter = i) :=
    List.filter_congr fun w _ => decide_not
  rw [← discardOf_eq hchain, hqueue]
  rfl

theorem cut_inRange {tag time : Nat} (h : time ≤ 4294967295) : requestInRange (.meterCut tag time) = true := by
  simpa [requestInRange, between] using h

/-- Settles O30: the three requests wait, and the Chain Unit takes them between applications. -/
theorem chainUnitRequestsWaitAndAreTaken : Obligations.ChainUnitRequestsWaitAndAreTaken := by
  unfold Obligations.ChainUnitRequestsWaitAndAreTaken
  refine ⟨fun tag meterTag time channel a b n s hs => ?_, fun s h meterTag time i m hlive hh hreq hi hm => ?_,
    fun s h meterTag i m hlive hh hreq hi hm hchain => ?_⟩
  · intro hr hc f hset
    refine ⟨fun i m hi hm => ⟨?_, fun htime => ?_⟩, fun hi => ⟨?_, fun htime => ?_⟩, fun hrange hbound => ?_⟩
    · exact exec_wait rfl hs rfl (onMeter_some (s := s.executing hr) hi hm _)
    · exact exec_wait rfl hs (cut_inRange htime) (onMeter_some (s := s.executing hc) hi hm _)
    · exact exec_runKind rfl hs rfl (onMeter_none (s := s.executing hr) hi _)
    · exact exec_runKind rfl hs (cut_inRange htime) (onMeter_none (s := s.executing hc) hi _)
    · exact exec_wait rfl hs hrange (if_pos hbound)
  · refine ⟨fun hchain => ?_, fun a ha => ?_⟩
    · refine congrArg Host.Outcome.next ((live_high hlive _).trans (takeWaiting_done hh (by rw [hreq]; rfl) hchain ?_))
      rw [hreq, ← cutMeter_some hm]
      exact onMeter_some hi hm _
    · exact congrArg Host.Outcome.next ((live_high hlive _).trans (congrArg State.afterwards (takeWaiting_applying ha _)))
  · intro required onlyIn
    have hrow {st : Status} {fs : List Byte} {t : State} {b : Bool}
        (hran : (if s.meterRequired i || s.onlyInflow i m then Ran.refuse .busy s else .ok [] (s.removeMeter i)) = .done st fs t b) :
        exec .retireTaken s = .next (t.answer h st fs b) := by
      refine congrArg Host.Outcome.next ((live_high hlive _).trans (takeWaiting_done hh (by rw [hreq]; rfl) hchain ?_))
      rw [hreq]
      exact (onMeter_some hi hm _).trans hran
    refine ⟨fun hbusy => hrow (if_pos (Bool.or_eq_true_iff.2 hbusy)), fun hfree honly => ⟨_, ?_, rfl⟩⟩
    rw [← removeMeter_eq hchain]
    exact hrow (if_neg fun hbusy => (Bool.or_eq_true_iff.1 hbusy).elim (fun h => Bool.false_ne_true (hfree.symm.trans h))
      fun h => Bool.false_ne_true (honly.symm.trans h))

end Sys2Proof.Machine

end

/-! CHANNEL SET, the meter reports, READINGS and the pulse inputs (R37 to R39, R44, R47, R48, R66 to R68). -/

section

namespace Sys2Proof.Machine

/-! ### CHANNEL SET (R47, R48) -/

theorem boundInHand_none {s : State} {c : Nat} (h : s.boundMeter c = none) : s.boundInHand c = false := by
  unfold State.boundInHand
  rw [h]

theorem boundInHand_some {s : State} {c i : Nat} {m : Meter} (h : s.boundMeter c = some (i, m)) :
    s.boundInHand c = s.inHand.any fun w => w.meter = i := by
  unfold State.boundInHand
  rw [h]

theorem cutBound_none {s : State} {c : Nat} (h : s.boundMeter c = none) : s.cutBound c = s := by
  unfold State.cutBound
  rw [h]

theorem cutBound_some {s : State} {c i : Nat} {m : Meter} (h : s.boundMeter c = some (i, m)) :
    s.cutBound c = s.cutMeter i s.clock.time := by
  unfold State.cutBound
  rw [h]

/-- Settles O31: carried out at once, or when the Chain Unit takes it. -/
theorem channelSetConfigures : Obligations.ChannelSetConfigures := by
  unfold Obligations.ChannelSetConfigures
  intro tag c a b n s hlive f h hr set
  refine ⟨fun hs hbound => ?_, fun i m hh hbound hm hchain => ?_⟩
  · have hset : (s.executing h).setChannelSettings c a b n = (set (s.executing h)).quiesce :=
      congrArg State.quiesce (cutBound_none (s := set (s.executing h)) hbound)
    refine exec_runKind rfl hs hr ((if_neg (by simp [hbound])).trans ((if_neg ?_).trans ?_))
    · rw [boundInHand_none (s := s.executing _) hbound]
      exact Bool.false_ne_true
    · rw [← hset]
      rfl
  · intro u
    have hrow {st : Status} {fs : List Byte} {t : State} {x : Bool} (hran : s.takeChannelSet c a b n = .done st fs t x) :
        exec .channelSetTaken s = .next (t.answer h st fs x) :=
      congrArg Host.Outcome.next ((live_high hlive _).trans (takeWaiting_done hh rfl hchain hran))
    have hcut : (set s).cutBound c = (set s).putMeter i { m with cut := some s.clock.time, chain := [] } :=
      (cutBound_some (s := set s) hbound).trans (cutMeter_some (s := set s) hm _)
    have hset : s.setChannelSettings c a b n = u := congrArg State.quiesce hcut
    refine ⟨fun hhand => hrow (if_pos ((boundInHand_some hbound).trans hhand)), fun hhand => hrow ((if_neg ?_).trans ?_)⟩
    · rw [boundInHand_some hbound, hhand]
      exact Bool.false_ne_true
    · rw [hset]
      rfl

/-- Settles O32: the row reports the channel's record. -/
theorem channelReadReports : Obligations.ChannelReadReports := by
  unfold Obligations.ChannelReadReports
  intro tag c s hs hc f h v fields
  have hr : requestInRange (.channelSet c f) = true := by simpa [requestInRange, between, channelInRange, optBetween, f] using hc
  have hfields : (s.executing h).channelFields c = fields := by
    simp only [State.channelFields, executing_channel, executing_boundMeter, executing_reserved, fields, v]
    cases s.boundMeter c <;> rfl
  rw [← hfields]
  exact ⟨exec_runKind rfl hs hr rfl, exec_runKind rfl hs hr rfl⟩

/-! ### METER STATUS and METER EXCEPTIONS (R66 to R68) -/

theorem emptyExceptions_some {s : State} {i : Nat} {m : Meter} (h : s.meter i = some m) :
    s.emptyExceptions i = s.putMeter i { m with exceptions := none } := by
  unfold State.emptyExceptions
  rw [h]

theorem emptyExceptions_meter (s : State) (i j : Nat) :
    (s.emptyExceptions i).meter j = (s.meter j).map fun m => if i = j then { m with exceptions := none } else m := by
  cases h : s.meter i with
  | none =>
    have hsame : s.emptyExceptions i = s := by
      unfold State.emptyExceptions
      rw [h]
    rw [hsame]
    by_cases hij : i = j
    · subst hij
      rw [h]
      rfl
    · simp [hij]
  | some m =>
    rw [emptyExceptions_some h, meter_putMeter]
    by_cases hij : j = i
    · subst hij
      simp [h]
    · simp [hij, Ne.symm hij]

theorem emptyExceptions_eq (s : State) (i : Nat) : s.emptyExceptions i = { s with meters := (s.emptyExceptions i).meters } := by
  unfold State.emptyExceptions
  split <;> rfl

/-- The records a sweep reports are emptied one after another. -/
theorem foldEmpty_meter (ps : List (Nat × Meter)) (s : State) (j : Nat) :
    (ps.foldl (fun s p => s.emptyExceptions p.1) s).meter j =
      (s.meter j).map fun m => if ps.any (fun p => p.1 = j) then { m with exceptions := none } else m := by
  induction ps generalizing s with
  | nil => simp
  | cons p rest ih =>
    rw [List.foldl_cons, ih, emptyExceptions_meter, Option.map_map]
    congr 1
    funext m
    rw [List.any_cons]
    by_cases hp : p.1 = j
    · simp [hp]
    · rw [decide_eq_false hp, Bool.false_or, Function.comp_apply, if_neg hp]

theorem foldEmpty_eq (ps : List (Nat × Meter)) (s : State) :
    ps.foldl (fun s p => s.emptyExceptions p.1) s =
      { s with meters := (ps.foldl (fun s p => s.emptyExceptions p.1) s).meters } := by
  induction ps generalizing s with
  | nil => rfl
  | cons p rest ih =>
    rw [List.foldl_cons, ih, emptyExceptions_eq]

/-- An optional field is a presence byte and the value, or zeros. -/
theorem le_zero (k : Nat) : le k 0 = List.replicate k 0 := by
  induction k with
  | zero => rfl
  | succ k ih => exact congrArg (byte 0 :: ·) ih

theorem leOpt_eq (k : Nat) (x : Option Nat) :
    leOpt k x = match x with
      | none => 0 :: List.replicate k 0
      | some v => 1 :: le k v := by
  cases x with
  | none => exact congrArg (0 :: ·) (le_zero k)
  | some v => rfl

/-- The end of a sweep's reply: where the next sweep goes on, or that nothing is left. -/
theorem sweepEnd_eq {found : List (Nat × Meter)} :
    leOpt 2 (if (found.length ≤ 16 : Bool) then none else some (sweepNext (found.take 16))) ++ leBool (found.length ≤ 16 : Bool) =
      if found.length ≤ 16 then [0, 0, 0, 1] else 1 :: (le 2 ((((found.take 16).getLast?).map (·.1)).getD 0 + 1) ++ [0]) := by
  by_cases h : found.length ≤ 16
  · simp only [h, decide_true, if_true]
    rfl
  · have hne : found.take 16 ≠ [] := by
      intro hnil
      have := congrArg List.length hnil
      simp only [List.length_take, List.length_nil] at this
      omega
    have hnext : sweepNext (found.take 16) = (((found.take 16).getLast?).map (·.1)).getD 0 + 1 := by
      rw [sweepNext, List.getLast?_eq_some_getLast hne]
      rfl
    simp only [h, decide_false, if_false, Bool.false_eq_true, hnext]
    rfl

/-- Settles O33: the record reported, and then emptied. -/
theorem meterReportsEmptyTheRecord : Obligations.MeterReportsEmptyTheRecord := by
  unfold Obligations.MeterReportsEmptyTheRecord
  intro tag meterTag s hs hstatus hexc record optional fields
  have hrecord (x : Option ExceptionRecord) : exceptionBytes x = record x := by cases x <;> rfl
  have hoptional (k : Nat) (x : Option Nat) : leOpt k x = optional k x := leOpt_eq k x
  refine ⟨fun hi => ⟨?_, ?_⟩, fun i m hi hm => ⟨?_, ?_⟩, fun index hindex hc => ?_⟩
  · exact exec_runKind rfl hs rfl (onMeter_none (s := s.executing hstatus) hi _)
  · exact exec_runKind rfl hs rfl (onMeter_none (s := s.executing hexc) hi _)
  · refine exec_runKind rfl hs rfl ((onMeter_some (s := s.executing hstatus) hi hm _).trans ?_)
    have hfields : (s.executing hstatus).meterFields i m = fields i m := by
      simp only [State.meterFields, hrecord, hoptional]
      rfl
    rw [hfields, emptyExceptions_some (s := s.executing hstatus) hm]
    rfl
  · refine exec_runKind rfl hs rfl ((onMeter_some (s := s.executing hexc) hi hm _).trans ?_)
    rw [exceptionEntry, hrecord, emptyExceptions_some (s := s.executing hexc) hm]
    rfl
  · intro hw set reported
    refine ⟨_, _, exec_runKind rfl hs (by simpa [requestInRange, between] using hindex) rfl, ?_, fun j => ?_, ?_⟩
    · simp only [List.append_assoc, sweepEnd_eq, exceptionEntry, hrecord]
      rfl
    · exact foldEmpty_meter _ _ j
    · rw [foldEmpty_eq]
      exact ⟨rfl, rfl, rfl, rfl, rfl, rfl, rfl, rfl, rfl, rfl, rfl⟩

/-! ### READINGS (R37 to R39) -/

/-- The outcome of a single record. -/
theorem takeRecords_one (base : Nat) (r : ReadingSpec) (s : State) :
    State.takeRecords base [r] s =
      ([(s.judge base r).1],
        if (s.judge base r).1 = .accepted then s.enqueue (s.judge base r).2 (ReadingSpec.reading base r) .host else s) := rfl

theorem takeRecords_cons (base : Nat) (r : ReadingSpec) (rest : List ReadingSpec) (s : State) :
    State.takeRecords base (r :: rest) s =
      ((State.takeRecords base [r] s).1 ++ (State.takeRecords base rest (State.takeRecords base [r] s).2).1,
        (State.takeRecords base rest (State.takeRecords base [r] s).2).2) := rfl

theorem takeRecords_refused {s : State} {base : Nat} {r : ReadingSpec} {o : ReadingOutcome} {i : Nat} (h : s.judge base r = (o, i))
    (ho : o ≠ .accepted) : State.takeRecords base [r] s = ([o], s) := by
  rw [takeRecords_one, h, if_neg ho]

theorem judge_meter {s : State} {base : Nat} {r : ReadingSpec} {i : Nat} {m : Meter} (hrun : s.clock.running = true)
    (hi : s.meterByTag r.tag = some i) (hm : s.meter i = some m) :
    s.judge base r =
      if m.kind = .pulse then (.wrongKind, i)
      else if m.refuses base r then (.badValue, i)
      else if s.clock.time + 300 < base + r.offset then (.future, i)
      else if s.hostFree = 0 then (.queueFull, i)
      else (.accepted, i) := by
  unfold State.judge
  simp [hrun, hi, hm]

theorem refuses_iff (m : Meter) (base : Nat) (r : ReadingSpec) :
    m.refuses base r = true ↔
      m.modulus ≤ r.forward ∨ (m.kind = .bidir ∧ ∀ v, r.reverse = some v → m.modulus ≤ v) ∨
        (m.kind = .bulk ∧ r.reverse.isSome) ∨ 4294967295 < base + r.offset := by
  have hall : (r.reverse.all (fun v => m.modulus ≤ v)) = true ↔ ∀ v, r.reverse = some v → m.modulus ≤ v := by
    cases r.reverse <;> simp
  simp only [Meter.refuses, Bool.or_eq_true, Bool.and_eq_true, decide_eq_true_iff, hall, or_assoc]

theorem hostFree_eq_zero (s : State) : s.hostFree = 0 ↔ 56 ≤ s.hostWaiting := by
  unfold State.hostFree Config.hostPlaces
  omega

/-- Records taken one after another touch the intake alone, and each has its outcome. -/
theorem takeRecords_frame (base : Nat) (rs : List ReadingSpec) (s : State) :
    (State.takeRecords base rs s).1.length = rs.length ∧ { (State.takeRecords base rs s).2 with intake := s.intake } = s := by
  induction rs generalizing s with
  | nil => exact ⟨rfl, rfl⟩
  | cons r rest ih =>
    have hone : { (State.takeRecords base [r] s).2 with intake := s.intake } = s := by
      rw [takeRecords_one]
      dsimp only
      split <;> rfl
    obtain ⟨hlen, hrest⟩ := ih (State.takeRecords base [r] s).2
    rw [takeRecords_cons]
    refine ⟨?_, ?_⟩
    · rw [List.length_append, hlen, List.length_cons, Nat.add_comm]
      rfl
    · calc { (State.takeRecords base rest (State.takeRecords base [r] s).2).2 with intake := s.intake }
          = { { (State.takeRecords base rest (State.takeRecords base [r] s).2).2 with
                intake := (State.takeRecords base [r] s).2.intake } with intake := s.intake } := rfl
        _ = { (State.takeRecords base [r] s).2 with intake := s.intake } := by rw [hrest]
        _ = s := hone

/-- Settles O34: the first row of R38 that holds, record after record. -/
theorem readingsAreTakenRecordByRecord : Obligations.ReadingsAreTakenRecordByRecord := by
  unfold Obligations.ReadingsAreTakenRecordByRecord
  refine ⟨fun s base r => ?_, fun tag base rs s hs h1 h2 => ?_⟩
  · intro time one
    refine ⟨fun hcold => takeRecords_refused (i := 0) ?_ (by decide), fun hrun => ⟨fun htag => takeRecords_refused (i := 0) ?_ (by decide),
      fun i m hi hm => ?_⟩⟩
    · unfold State.judge
      simp [hcold]
    · unfold State.judge
      simp [hrun, htag]
    · intro bad
      have hjudge := judge_meter (base := base) hrun hi hm
      have hbad : m.refuses base r = true ↔ bad := refuses_iff m base r
      refine ⟨fun hpulse => ?_, fun hkind hb => ?_, fun hkind hb hfuture => ?_, fun hkind hb hnow hfull => ?_,
        fun hkind hb hnow hroom => ?_⟩
      · exact takeRecords_refused (hjudge.trans (if_pos hpulse)) (by decide)
      · exact takeRecords_refused (hjudge.trans ((if_neg hkind).trans (if_pos (hbad.2 hb)))) (by decide)
      · exact takeRecords_refused (hjudge.trans ((if_neg hkind).trans ((if_neg (mt hbad.1 hb)).trans (if_pos hfuture)))) (by decide)
      · exact takeRecords_refused (hjudge.trans ((if_neg hkind).trans ((if_neg (mt hbad.1 hb)).trans
          ((if_neg (Nat.not_lt.2 hnow)).trans (if_pos ((hostFree_eq_zero s).2 hfull)))))) (by decide)
      · have haccepted : s.judge base r = (.accepted, i) := hjudge.trans ((if_neg hkind).trans ((if_neg (mt hbad.1 hb)).trans
          ((if_neg (Nat.not_lt.2 hnow)).trans (if_neg fun h => absurd ((hostFree_eq_zero s).1 h) (Nat.not_le.2 hroom)))))
        show State.takeRecords base [r] s = _
        rw [takeRecords_one, haccepted]
        rfl
  · intro h os u
    obtain ⟨hlen, hframe⟩ := takeRecords_frame base rs (s.executing h)
    have hr : requestInRange (.readings base rs) = true := by simp [requestInRange, between, h1, h2]
    refine ⟨(exec_runKind rfl hs hr rfl).trans ?_, hlen, hframe, fun q base' => rfl, fun r rest q => rfl⟩
    have hfirst : leOpt 4 ((if os.contains .accepted then some s.intake.next else none).map intakeNumber) =
        if os.contains .accepted then 1 :: le 4 (s.intake.next % 4294967296) else [0, 0, 0, 0, 0] := by
      split <;> rfl
    rw [readingsFields, executing_intake, hfirst, hlen]
    rfl

/-! ### The pulse inputs (R44) -/

/-- Settles O35: by the level, and by whether the low period is measured. -/
theorem pulsesAreJudgedByTheirWidth : Obligations.PulsesAreJudgedByTheirWidth := by
  unfold Obligations.PulsesAreJudgedByTheirWidth
  intro c micros s hc hlive v
  have hfall : exec (.pulseFallingEdge c) s = .next (s.setChannel c v.fall) :=
    congrArg Host.Outcome.next ((if_neg (Nat.not_le.2 hc)).trans (if_neg (by simp [hlive])))
  have hrise : exec (.pulseRisingEdge c micros) s = .next (s.setChannel c (v.rise micros)) :=
    congrArg Host.Outcome.next ((if_neg (Nat.not_le.2 hc)).trans (if_neg (by simp [hlive])))
  rw [hfall, hrise]
  refine ⟨fun hhigh => ⟨?_, ?_⟩, fun hlow => ⟨?_, fun hon hmeasured hwide => ?_, fun hon hmeasured hnarrow => ?_, fun hoff => ?_⟩⟩
  · rw [Channel.fall, if_neg (by simp [hhigh])]
  · rw [Channel.rise, if_pos (by simp [hhigh])]
  · rw [Channel.fall, if_pos hlow]
  all_goals have hnot : ¬ (!v.lineLow) = true := by simp [hlow]
  · rw [Channel.rise, if_neg hnot]
    simp only [hon, hmeasured, Bool.and_true, if_true]
    rw [Channel.judge, if_pos hwide]
  · rw [Channel.rise, if_neg hnot]
    simp only [hon, hmeasured, Bool.and_true, if_true]
    rw [Channel.judge, if_neg (Nat.not_le.2 hnarrow)]
  · rw [Channel.rise, if_neg hnot]
    obtain h | h := hoff <;> simp [h]

end Sys2Proof.Machine

end

/-! The Assessor and the Verdict Unit (R92 to R130). -/

section

namespace Sys2Proof.Machine

/-! ### The take and the completion (R93 to R105) -/

theorem exec_assessorTake {s : State} (hlive : s.link.resetLow = false) : exec .assessorTake s = .next s.assessorTake.afterwards :=
  congrArg Host.Outcome.next (live_high hlive _)

/-- Settles O43: by what the queue holds, and by whether the night has a run. -/
theorem assessorTakesTheHead : Obligations.AssessorTakesTheHead := by
  unfold Obligations.AssessorTakesTheHead
  intro s hlive
  rw [exec_assessorTake hlive]
  refine ⟨fun hbusy => ?_, fun r rest n e hassess hn he => ?_⟩
  · have hnone : s.assessorTake = s := by
      unfold State.assessorTake
      obtain hflight | hqueue := hbusy
      · obtain ⟨f, hf⟩ := Option.isSome_iff_exists.1 hflight
        rw [hf]
      · rw [hqueue]
        cases s.assess.flight <;> rfl
    rw [hnone]
  · intro L day
    have htake : s.assessorTake = State.beginAssessment { s with assess := { queue := rest, flight := none } } r n := by
      unfold State.assessorTake
      simp only [hassess]
      rw [show State.night { s with assess := { queue := rest, flight := none } } r = some n from hn]
    rw [htake]
    refine ⟨fun hruns => ?_, fun i mnf hmin => ⟨_, rfl, ?_, ?_⟩⟩
    · unfold State.beginAssessment
      have hnone : n.minimum L = none := Night.minimum_eq_none.2 hruns
      simp only [show n.minimum (State.slotSeconds { s with assess := { queue := rest, flight := none } }) = none from hnone]
      rfl
    all_goals
      unfold State.beginAssessment
      simp only [show n.minimum (State.slotSeconds { s with assess := { queue := rest, flight := none } }) = some (i, mnf) from hmin]
    · have hlnu : State.lnuOf { s with assess := { queue := rest, flight := none } } r n = e.lnu day ((day + s.clock.epoch) % 7) := by
        unfold State.lnuOf
        rw [show State.entry { s with assess := { queue := rest, flight := none } } r.zone = some e from he]
        rfl
      rw [hlnu]
      rfl
    · have hquality : n.assessedQuality s.slotSeconds =
          if n.quality = .clean ∧ n.complete L = false then .incomplete else n.quality := by
        unfold Night.assessedQuality
        simp only [Bool.not_eq_true']
        rfl
      rw [← hquality]
      rfl

/-- Settles O46: the result of the night in flight, handed over. -/
theorem completionHandsOverTheResult : Obligations.CompletionHandsOverTheResult := by
  unfold Obligations.CompletionHandsOverTheResult
  intro s hlive
  have hexec : exec .assessmentCompletion s = .next s.completeAssessment.afterwards :=
    congrArg Host.Outcome.next (live_high hlive _)
  rw [hexec]
  refine ⟨fun hnone => ?_, fun f n hf hn => ?_⟩
  · unfold State.completeAssessment
    rw [hnone]
  · intro v clamp nnf r
    unfold State.completeAssessment
    rw [hf]
    simp only [show State.night { s with assess := { s.assess with flight := none } } f.night = some n from hn]
    rfl

/-! ### A result handed to the Verdict Unit (R111 to R120, R130) -/

theorem tests_eq {s : State} {z : Nat} {e : ZoneEntry} (he : s.entry z = some e) : s.tests z = e.tests := by
  unfold State.tests
  rw [he]
  rfl

theorem handleResult_survey {s : State} {r : ResultRecord} (h : r.survey = true) :
    s.handleResult r =
      (s.setVerdict r.zone ((s.zone r.zone).verdict.handleSurvey (s.tests r.zone) r)).raise r.zone .survey := if_pos h

theorem handleResult_held {s : State} {r : ResultRecord} (h : r.survey = false) (hd : (s.zone r.zone).verdict.discards = true) :
    s.handleResult r = s.recordSkip r.zone .held r.day := (if_neg (by simp [h])).trans (if_pos hd)

/-- A regular result that is not discarded, `w` being what its handling makes of the record. -/
theorem handleResult_regular {s : State} {r : ResultRecord} {w : Verdict} (h : r.survey = false)
    (hd : (s.zone r.zone).verdict.discards = false) (hw : (s.zone r.zone).verdict.handle (s.tests r.zone) r = w) :
    s.handleResult r =
      ((s.setVerdict r.zone w).raise r.zone .result).raiseIf (verdictRaised (s.zone r.zone).verdict w) r.zone .verdict := by
  rw [← hw]
  exact (if_neg (by simp [h])).trans (if_neg (by simp [hd]))

theorem verdictRaised_same {v w : Verdict} (hs : w.state = v.state) (ha : w.alarm = v.alarm) : verdictRaised v w = false := by
  simp [verdictRaised, hs, ha]

theorem verdictRaised_eq (v w : Verdict) :
    verdictRaised v w = decide (w.state ≠ v.state ∨ (w.alarm.isSome ∧ w.alarm ≠ v.alarm)) := by
  rw [Bool.eq_iff_iff, decide_eq_true_iff]
  simp [verdictRaised, ne_comm]

/-- A handling that keeps the verdict state and the alarm record raises RESULT alone. -/
theorem handleResult_kept {s : State} {r : ResultRecord} {w : Verdict} (h : r.survey = false)
    (hd : (s.zone r.zone).verdict.discards = false) (hw : (s.zone r.zone).verdict.handle (s.tests r.zone) r = w)
    (hs : w.state = (s.zone r.zone).verdict.state) (ha : w.alarm = (s.zone r.zone).verdict.alarm) :
    s.handleResult r = (s.setVerdict r.zone w).raise r.zone .result := by
  rw [handleResult_regular h hd hw, verdictRaised_same hs ha]
  rfl

theorem discards_of_not_alarm {v : Verdict} (h : v.state ≠ .alarm) : v.discards = false := by
  simp [Verdict.discards, h]

theorem learn_of_not_clean {v : Verdict} {t : Tests} {r : ResultRecord} (h : r.quality ≠ .clean) :
    v.learn t r = v.record v.baseline .notTested r := by
  unfold Verdict.learn
  rw [if_neg h]

/-- A CLEAN night short of the learning length is learned, and the zone goes on learning. -/
theorem learn_of_short {v : Verdict} {t : Tests} {r : ResultRecord} (h : r.quality = .clean) (hn : v.count + 1 < t.learn) :
    v.learn t r =
      Verdict.record { v with baseline := learnedBaseline v.baseline v.count r.nnf, count := v.count + 1 } v.baseline .notTested r := by
  unfold Verdict.learn
  rw [if_pos h, if_neg (Nat.not_le.2 hn)]

/-- A CLEAN night that makes the learning length full leaves the zone NORMAL. -/
theorem learn_of_full {v : Verdict} {t : Tests} {r : ResultRecord} (h : r.quality = .clean) (hn : t.learn ≤ v.count + 1) :
    v.learn t r =
      Verdict.record { v with baseline := learnedBaseline v.baseline v.count r.nnf, count := t.learn, state := .normal }
        v.baseline .notTested r := by
  unfold Verdict.learn
  rw [if_pos h, if_pos hn]

theorem handle_learning {v : Verdict} (h : v.state = .learning) (t : Tests) (r : ResultRecord) : v.handle t r = v.learn t r := by
  unfold Verdict.handle
  rw [h]

theorem handle_disturbed {v : Verdict} (h : v.state = .normal ∨ v.state = .suspect) (t : Tests) {r : ResultRecord}
    (hr : r.quality = .disturbed) : v.handle t r = v.record v.baseline .notTested r := by
  unfold Verdict.handle
  obtain h | h := h <;> rw [h] <;> exact if_pos hr

theorem handle_alarm {v : Verdict} (h : v.state = .alarm) (hw : v.waiting = none) (t : Tests) (r : ResultRecord) :
    v.handle t r = { v with waiting := some r } := by
  unfold Verdict.handle
  rw [h]
  exact if_pos (by simp [hw])

theorem handle_repair {v : Verdict} (h : v.state = .repair) (t : Tests) (r : ResultRecord) :
    v.handle t r = v.record v.baseline .notTested r := by
  unfold Verdict.handle
  rw [h]

theorem nextCusum_eq (t : Tests) (cusum : Nat) (e : Int) :
    nextCusum t cusum e = if 0 < (cusum : Int) + e - t.slack then (min ((cusum : Int) + e - t.slack) 2147483647).toNat else 0 := by
  split
  · rename_i h
    rw [nextCusum, max_eq_left h.le]
  · rename_i h
    exact nextCusum_of_nonpos (not_lt.1 h)

/-- The outcome of a test is that of the first row of R116. -/
theorem testRow_outcome (t : Tests) (c p : Nat) (e : Int) :
    (testRow t c p e).2.1 =
      if p = t.persist then .burst else if t.limit ≤ c then .creep else if (t.burst : Int) ≤ e then .burst else .pass := by
  unfold testRow
  split
  · rfl
  · split
    · rfl
    · split <;> rfl

/-- Settles O47: by the verdict state the result finds. -/
theorem resultsByVerdictState : Obligations.ResultsByVerdictState := by
  unfold Obligations.ResultsByVerdictState
  intro s r e he z v kept
  have htests : s.tests r.zone = e.tests := tests_eq he
  refine ⟨fun hr => ⟨fun hst hq => ?_, fun hst hq => ?_, fun hst hq => ?_, fun hst hq => ?_, fun hst hw => ?_, fun hst hw => ?_,
    fun hst => ?_⟩, fun hr hskip => ?_, fun hr hst hq => ?_⟩
  · exact handleResult_kept hr (discards_of_not_alarm (v := v) (by simp [hst]))
      ((handle_learning (v := v) hst _ r).trans (learn_of_not_clean hq)) rfl rfl
  · intro b
    have hdiscards : v.discards = false := discards_of_not_alarm (by simp [hst])
    refine ⟨fun hn => ?_, fun hn => ?_⟩
    · exact handleResult_kept hr hdiscards ((handle_learning (v := v) hst _ r).trans (learn_of_short hq (htests ▸ hn))) rfl rfl
    · have hhandle := (handle_learning (v := v) hst (s.tests r.zone) r).trans (learn_of_full hq (htests ▸ hn))
      rw [handleResult_regular hr hdiscards hhandle, htests]
      have hraised (w : Verdict) (hw : w.state = .normal) : verdictRaised v w = true := by simp [verdictRaised, hst, hw]
      exact if_pos (hraised _ rfl)
  · exact handleResult_kept hr (discards_of_not_alarm (v := v) (by obtain h | h := hst <;> simp [h]))
      (handle_disturbed (v := v) hst _ hq) rfl rfl
  · intro w changed
    have hchanged : changed = verdictRaised v w := (verdictRaised_eq v w).symm
    rw [hchanged]
    exact handleResult_regular hr (discards_of_not_alarm (v := v) (by obtain h | h := hst <;> simp [h])) (by rw [htests])
  · exact handleResult_kept hr (by rw [Verdict.discards, show (s.zone r.zone).verdict.waiting = none from hw, Option.isSome_none, Bool.and_false])
      (handle_alarm (v := v) hst hw _ r) rfl rfl
  · exact handleResult_held hr (by rw [Verdict.discards, show (s.zone r.zone).verdict.state = .alarm from hst, hw]; rfl)
  · exact handleResult_kept hr (discards_of_not_alarm (v := v) (by simp [hst])) (handle_repair (v := v) hst _ r) rfl rfl
  · rw [handleResult_survey hr]
    have hsurvey : v.handleSurvey (s.tests r.zone) r = { v with survey := some (kept .notTested) } := if_pos hskip
    rw [hsurvey]
  · intro x c p o
    rw [handleResult_survey hr, htests]
    have hc : c = nextCusum e.tests v.cusum x := (nextCusum_eq e.tests v.cusum x).symm
    have ho : o = (testRow e.tests c p x).2.1 := (testRow_outcome e.tests c p x).symm
    have hsurvey : v.handleSurvey e.tests r = { v with survey := some { kept o with cusum := c, persistence := p } } := by
      rw [ho, hc]
      exact if_neg (not_or.2 ⟨hst, hq⟩)
    rw [hsurvey]

/-- Settles O49: the first row of R116 that holds. -/
theorem testedResultSetsTheVerdict : Obligations.TestedResultSetsTheVerdict := by
  unfold Obligations.TestedResultSetsTheVerdict
  intro t v r hv hr e c p last alarm
  rw [Verdict.handle_eq_test t hv hr]
  have hrow : ∀ row, testRow t c p e = row → v.test t r =
      Verdict.record
        { v with
          cusum := c, persistence := p, state := row.1
          alarm := match row.2.2 with
            | none => v.alarm
            | some cause =>
              some { cause := cause, day := r.day, nnf := r.nnf, excess := e, baseline := v.baseline, cusum := c, persistence := p }
          baseline := if r.quality = .clean ∧ row.1 = .normal then followedBaseline v.baseline t.weight r.nnf else v.baseline }
        v.baseline row.2.1 r := fun row h => by
    rw [← h]
    rfl
  refine ⟨fun hp => ?_, fun hp hc => ?_, fun hp hc he => ?_, fun hp hc he => ?_⟩
  · rw [hrow _ (if_pos hp)]
    simp only [reduceCtorEq, and_false, if_false]
    rfl
  · rw [hrow _ ((if_neg hp).trans (if_pos hc))]
    simp only [reduceCtorEq, and_false, if_false]
    rfl
  · rw [hrow _ ((if_neg hp).trans ((if_neg (Nat.not_le.2 hc)).trans (if_pos he)))]
    simp only [reduceCtorEq, and_false, if_false]
    rfl
  · rw [hrow _ ((if_neg hp).trans ((if_neg (Nat.not_le.2 hc)).trans (if_neg (Int.not_le.2 he))))]
    simp only [and_true, followedBaseline, Nat.cast_pow]
    rfl

/-! ### Dispositions (R121 to R125) -/

theorem raise_entry (s : State) (z : Nat) (f : ZoneFlag) (y : Nat) : (s.raise z f).entry y = s.entry y := (raise_frame s z f).entry y

theorem setVerdict_verdict (s : State) (z : Nat) (v : Verdict) : ((s.setVerdict z v).zone z).verdict = v := by
  rw [State.setVerdict, zone_setZone, if_pos rfl]

theorem setVerdict_entry (s : State) (z : Nat) (v : Verdict) : (s.setVerdict z v).entry z = s.entry z := by
  rw [State.entry, State.setVerdict, zone_setZone, if_pos rfl]
  rfl

theorem widenSettle_entry {s : State} {z : Nat} {e : ZoneEntry} (he : s.entry z = some e) (p : Span) :
    (s.widenSettle z p).entry z = some { e with settle := some (Span.hull e.settle p) } := by
  rw [widenSettle_some he, State.entry, zone_setZone, if_pos rfl]
  exact (congrArg Zone.entry (disturbAll_rest _ _ _) :)

theorem widenSettle_verdict {s : State} {z : Nat} {e : ZoneEntry} (he : s.entry z = some e) (p : Span) :
    ((s.widenSettle z p).zone z).verdict = (s.zone z).verdict := by
  rw [widenSettle_some he, zone_setZone, if_pos rfl]
  exact (congrArg Zone.verdict (disturbAll_rest _ _ _) :)

/-- A disposition leaves the record its handling of a waiting result gives. -/
theorem dispose_verdict (s : State) (z : Nat) (after : Verdict) :
    ((s.dispose z after).zone z).verdict = after.releaseWaiting (s.tests z) := by
  have h := (raiseIf_frame (s.setVerdict z (after.releaseWaiting (s.tests z))) (s.zone z).verdict.waiting.isSome z .result).trans
    (raise_frame _ z .verdict)
  exact (h.verdict z).trans (setVerdict_verdict s z _)

theorem disposition_inRange {z d : Nat} {b : Bool} (h1 : 1 ≤ z) (h2 : z ≤ 256) (hd : d ≤ 2) :
    requestInRange (.dispose z d b) = true := by
  simp [requestInRange, zoneOk_eq_true h1 h2, between, hd]

/-- Settles O50: by the verdict state each disposition is taken in. -/
theorem dispositionsEndAnAlarm : Obligations.DispositionsEndAnAlarm := by
  unfold Obligations.DispositionsEndAnAlarm
  intro tag z absorb s e hs h1 h2 he hd hc hr v release put
  have hrange (d : Nat) (h : d ≤ 2) := disposition_inRange (b := absorb) h1 h2 h
  have hrelease (h : Held) (x : Verdict) (hx : x.waiting = v.waiting) : x.releaseWaiting ((s.executing h).tests z) = release x := by
    rw [executing_tests, tests_eq he]
    unfold Verdict.releaseWaiting
    rw [hx] <;> rfl
  have hput (h : Held) (x : Verdict) (hx : x.waiting = v.waiting) : (s.executing h).dispose z x = put (s.executing h) (release x) := by
    rw [← hrelease h x hx]
    rfl
  have hreply (h : Held) (x : Verdict) (hx : x.waiting = v.waiting) :
      ((s.executing h).dispose z x).verdictFields z = [byte (release x).state.code] := by
    rw [State.verdictFields, dispose_verdict, hrelease h x hx]
    rfl
  refine ⟨fun hno => ⟨?_, ?_⟩, fun halarm => ⟨fun a ha => ?_, fun habsorb => ?_, fun habsorb => ?_⟩, fun hno => ?_,
    fun hrepair => ⟨fun habsorb => ?_, fun habsorb => ?_⟩⟩
  · exact exec_onZone rfl hs (hrange 0 (by decide)) (fun _ => rfl) he (if_pos hno)
  · exact exec_onZone rfl hs (hrange 1 (by decide)) (fun _ => rfl) he (if_pos hno)
  · intro y
    refine exec_onZone rfl hs (hrange 0 (by decide)) (fun _ => rfl) he ((if_neg (not_not.2 halarm)).trans ?_)
    have hdismiss : v.dismiss absorb =
        { v with baseline := if absorb then a.nnf else v.baseline, persistence := 0, cusum := 0, alarm := none, state := .normal } := by
      rw [Verdict.dismiss, ha]
      rfl
    have hy : y = release (v.dismiss absorb) := by rw [hdismiss]
    rw [hy, ← hreply hd (v.dismiss absorb) rfl, ← hput hd (v.dismiss absorb) rfl]
    rfl
  · exact exec_onZone rfl hs (hrange 1 (by decide)) (fun _ => rfl) he ((if_neg (not_not.2 halarm)).trans (if_pos habsorb))
  · intro y
    refine exec_onZone rfl hs (hrange 1 (by decide)) (fun _ => rfl) he ((if_neg (not_not.2 halarm)).trans
      ((if_neg (by simp [habsorb])).trans ?_))
    have hy : y = release v.confirm := rfl
    rw [hy, ← hreply hc v.confirm rfl, ← hput hc v.confirm rfl]
    rfl
  · exact exec_onZone rfl hs (hrange 2 (by decide)) (fun _ => rfl) he (if_pos hno)
  · exact exec_onZone rfl hs (hrange 2 (by decide)) (fun _ => rfl) he ((if_neg (not_not.2 hrepair)).trans (if_pos habsorb))
  · intro y u
    have hrow {fs : List Byte} {t : State} (ht : (s.executing hr).repairDone z = t)
        (hfs : t.verdictFields z ++ settleBytes ((t.entry z).bind (·.settle)) = fs) :
        exec (.repaired tag z absorb) s = .next (t.answer hr .ok fs false) := by
      subst hfs ht
      exact exec_onZone rfl hs (hrange 2 (by decide)) (fun _ => rfl) he ((if_neg (not_not.2 hrepair)).trans
        (if_neg (by simp [habsorb])))
    have huentry : u.entry z = some e := ((raise_entry _ _ _ _).trans (setVerdict_entry _ _ _)).trans he
    have huverdict : (u.zone z).verdict.state = .normal :=
      congrArg Verdict.state (((raise_frame _ z .verdict).verdict z).trans (setVerdict_verdict _ _ _))
    have htests : (s.executing hr).tests z = e.tests := tests_eq he
    refine ⟨fun h0 => hrow ?_ ?_, fun hpos => ?_⟩
    · exact if_neg (by rw [htests, h0]; decide)
    · rw [State.verdictFields, huverdict, huentry]
      cases hsettle : e.settle <;> simp only [Option.bind_some, hsettle] <;> rfl
    · intro p
      refine hrow ((if_pos (by rw [htests]; exact hpos)).trans ?_) ?_
      · rw [htests]
        rfl
      · rw [State.verdictFields, widenSettle_verdict huentry, widenSettle_entry huentry, huverdict]
        rfl

/-! ### REBASELINE and BASELINE PUT (R127, R128) -/

/-- Settles O51: the record replaced, and the refusals of BASELINE PUT. -/
theorem baselinesAreReplaced : Obligations.BaselinesAreReplaced := by
  unfold Obligations.BaselinesAreReplaced
  intro tag z s e hs h1 h2 he v
  refine ⟨exec_onZone rfl hs (zoneOk_eq_true h1 h2) (fun _ => rfl) he rfl, fun b n k hr => ?_⟩
  intro h count st
  refine ⟨fun hno => exec_onZone rfl hs hr (fun _ => rfl) he (if_pos hno), fun halarm hrepair =>
    exec_onZone rfl hs hr (fun _ => rfl) he ((if_neg (not_or.2 ⟨halarm, hrepair⟩)).trans ?_)⟩
  have hcount : min n e.tests.learn = count := by
    simp only [count]
    split <;> omega
  have hput : v.put e.tests.learn b n k = { v with baseline := b, count := count, cusum := k, persistence := 0, state := st } := by
    rw [Verdict.put, hcount]
  rw [show (s.executing h).zone z = s.zone z from rfl, hput]
  rfl

end Sys2Proof.Machine

end

/-! The reports of results and zones, and the stream requests (R138 to R144, R161, R164, R166). -/

section

namespace Sys2Proof.Machine

/-! ### RESULT GET and ZONE STATUS (R143, R144, R164) -/

theorem le_length (k v : Nat) : (le k v).length = k := by
  induction k generalizing v with
  | zero => rfl
  | succ k ih => exact congrArg (· + 1) (ih _)

theorem leSigned_length (v : Int) : (leSigned v).length = 4 := le_length 4 _

theorem record_length (x : ResultRecord) : x.bytes.length = 38 := by
  simp only [ResultRecord.bytes, List.length_append, le_length, leSigned_length]
  rfl

/-- A drain mark's field is a presence byte and the intake number, or zeros. -/
theorem markBytes_eq (n : Night) :
    n.markBytes = match n.mark with
      | none => [0, 0, 0, 0, 0]
      | some m => 1 :: le 4 (m % 4294967296) := by
  unfold Night.markBytes
  cases n.mark <;> rfl

theorem queued_byte (s : State) (z : Nat) : leBool (s.queued z) = [if z ∈ s.notices.queue then 1 else 0] := by
  unfold leBool State.queued
  simp only [List.contains_iff_mem]

theorem selected_eq (v : Verdict) {selector : Nat} (h : selector ≤ 2) :
    v.selected selector = if selector = 0 then v.last else if selector = 1 then v.waiting else v.survey :=
  match selector, h with
  | 0, _ => rfl
  | 1, _ => rfl
  | 2, _ => rfl

theorem le_one (v : Nat) : le 1 v = [byte v] := rfl

theorem runState_byte (e : ZoneEntry) : le 1 (runStateCode (some e)) = [if e.active then 2 else 1] := by
  rw [le_one]
  cases h : e.active <;> simp only [runStateCode, h] <;> rfl

theorem append_congr {a a' b b' : List Byte} (h : a = a') (k : b = b') : a ++ b = a' ++ b' := by rw [h, k]

/-- Settles O53: field by field. -/
theorem resultsAndZonesAreReported : Obligations.ResultsAndZonesAreReported := by
  unfold Obligations.ResultsAndZonesAreReported
  refine ⟨fun tag z s e hs h1 h2 he => ?_, rfl, rfl, rfl, rfl, rfl, rfl, rfl, rfl, rfl, rfl, rfl, rfl, rfl, rfl, rfl, rfl, rfl, rfl,
    ⟨rfl, fun _ => rfl⟩, fun _ _ _ _ => ⟨rfl, rfl, rfl⟩⟩
  intro record night v f fields
  refine ⟨fun x => record_length x, fun selector hsel => ?_, ?_⟩
  · intro h v r
    have hr : requestInRange (.resultGet z selector) = true := by simp [requestInRange, zoneOk_eq_true h1 h2, between, hsel]
    have hselected : v.selected selector = r := selected_eq v hsel
    refine exec_onZone rfl hs hr (fun _ => rfl) he ?_
    rw [show ((s.executing h).zone z).verdict.selected selector = r from hselected]
    cases r <;> rfl
  · intro h
    refine exec_onZone rfl hs (zoneOk_eq_true h1 h2) (fun _ => rfl) he ?_
    have hnight (d : Nat) (o : Option Night) (ho : s.night { zone := z, desc := d } = o) : nightBytes d o = night d := by
      simp only [night, ho]
      cases o with
      | none => rfl
      | some n =>
        simp only [nightBytes, Option.map_some, leGroup, markBytes_eq]
        by_cases hd : d = 2 <;> simp only [hd] <;> rfl
    have hwindow : leGroup 3 (e.window.map fun w => le 2 w.start ++ le 1 w.slots) =
        match e.window with
          | none => [0, 0, 0, 0]
          | some w => [1] ++ le 2 w.start ++ [byte w.slots] := by
      cases e.window <;> rfl
    have hsettle : settleBytes e.settle =
        match e.settle with
          | none => List.replicate 9 0
          | some p => [1] ++ le 4 p.start ++ le 4 p.stop := by
      cases e.settle <;> rfl
    have halarm : alarmBytes (s.zone z).verdict.alarm =
        match (s.zone z).verdict.alarm with
          | none => List.replicate 21 0
          | some a =>
            [1] ++ [byte a.cause.code] ++ le 2 a.day ++ leSigned a.nnf ++ leSigned a.excess ++ leSigned a.baseline ++ le 4 a.cusum ++
              [byte a.persistence] := by
      cases (s.zone z).verdict.alarm <;> rfl
    have hskip : skipBytes (s.zone z).skip =
        match (s.zone z).skip with
          | none => [0, 0, 0, 0]
          | some k => [byte k.cause.code] ++ le 2 k.day ++ [byte k.count] := by
      cases (s.zone z).skip <;> rfl
    have hfields : (s.executing h).zoneFields z e = fields := by
      unfold State.zoneFields
      exact append_congr (append_congr (append_congr (append_congr (append_congr (append_congr (append_congr (append_congr
        (append_congr (append_congr (append_congr (append_congr (append_congr (append_congr (append_congr
        (append_congr (append_congr (append_congr (append_congr (append_congr (runState_byte e) hwindow) rfl) rfl)
        hsettle) rfl) rfl) rfl) rfl) rfl) halarm) rfl) rfl) rfl) hskip) rfl) (queued_byte s z)) rfl) (hnight 0 _ rfl))
        (hnight 1 _ rfl)) (hnight 2 _ rfl)
    rw [hfields]
    rfl

/-! ### The stream requests (R138 to R141, R166) -/

/-- A STEP roll call without a defined zone left ends. -/
theorem runRollcallNext_end {s : State} {st : Stream} {next left : Nat} (hst : s.stream = some st) (hb : st.body = .step next left)
    (h1 : 1 ≤ next) (h2 : next ≤ 256) (hnone : s.definedPlaces next left = []) :
    s.runRollcallNext = .ok (le 1 1 ++ List.replicate 19 0) { s with stream := none } := by
  have hw := walk_eq s left 1 h1 h2
  rw [hnone, List.take_nil, List.map_nil] at hw
  unfold State.runRollcallNext
  simp only [hst, hb, hw]

/-- A STEP roll call replies with the summary of its next defined zone and goes on behind it. -/
theorem runRollcallNext_zone {s : State} {st : Stream} {next left k : Nat} {ks : List Nat} (hst : s.stream = some st)
    (hb : st.body = .step next left) (h1 : 1 ≤ next) (h2 : next ≤ 256) (hplaces : s.definedPlaces next left = k :: ks) :
    s.runRollcallNext =
      .ok (le 1 0 ++ (s.zone (zoneAt next k)).summary (zoneAt next k))
        { s with stream := some { st with body := .step (zoneAt next (k + 1)) (left - (k + 1)), sent := st.sent + 1 } } := by
  have hw := walk_eq s left 1 h1 h2
  rw [hplaces, List.take_succ_cons, List.map_cons] at hw
  unfold State.runRollcallNext
  simp only [hst, hb, hw]
  rfl

theorem definedPlaces_nil {s : State} {next left : Nat} (h : ∀ k, k < left → s.entry (zoneAt next k) = none) :
    s.definedPlaces next left = [] := by
  refine List.filter_eq_nil_iff.2 fun k hk => ?_
  simp [h k (List.mem_range.1 hk)]

/-- The first defined place of a walk. -/
theorem definedPlaces_cons {s : State} {next left k : Nat} (hk : k < left) (hdef : (s.entry (zoneAt next k)).isSome)
    (hfirst : ∀ j, j < k → s.entry (zoneAt next j) = none) : ∃ ks, s.definedPlaces next left = k :: ks := by
  obtain ⟨m, rfl⟩ : ∃ m, left = k + (m + 1) := ⟨left - k - 1, by omega⟩
  unfold State.definedPlaces
  rw [List.range_add, List.filter_append, List.range_succ_eq_map, List.map_cons, List.filter_cons]
  have hnil : ((List.range k).filter fun j => (s.entry (zoneAt next j)).isSome) = [] := definedPlaces_nil hfirst
  rw [hnil, Nat.add_zero, if_pos hdef]
  exact ⟨_, rfl⟩

theorem runProfile_none {s : State} {z d : Nat} {e : ZoneEntry} (he : s.entry z = some e)
    (hn : s.night { zone := z, desc := d } = none) : s.runProfile z d = .refuse .noSuch s := by
  unfold State.runProfile
  rw [onZone_some he]
  simp only [hn]

theorem runProfile_some {s : State} {z d : Nat} {e : ZoneEntry} {n : Night} (he : s.entry z = some e)
    (hn : s.night { zone := z, desc := d } = some n) :
    s.runProfile z d =
      if s.stream.isSome then .refuse .busy s
      else if n.state = .armed then .refuse .wrongState s
      else .done .ok (s.headerFields { zone := z, desc := d } n)
        { s with stream := some (Stream.start (.profile { zone := z, desc := d } n.slotCount true)) } true := by
  unfold State.runProfile
  rw [onZone_some he]
  simp only [hn]

/-- Settles O54: by the stream in flight. -/
theorem streamsAreCommanded : Obligations.StreamsAreCommanded := by
  unfold Obligations.StreamsAreCommanded
  refine ⟨fun tag s hs => ⟨fun first last mode hr => ?_, ?_, fun z d hr he => ?_⟩, fun tag s hs => ?_⟩
  · intro h n
    refine ⟨fun hbusy => exec_runKind rfl hs hr (if_pos hbusy), fun hfree => exec_runKind rfl hs hr ((if_neg ?_).trans rfl)⟩
    simp [hfree]
  · intro h
    have hrow {st : Status} {fs : List Byte} {t : State} {b : Bool} (hran : (s.executing h).runRollcallStop = .done st fs t b) :
        exec (.rollcallStop tag) s = .next (t.answer h st fs b) := exec_runKind rfl hs rfl hran
    refine ⟨fun hnone => hrow ?_, fun st hst => ⟨fun next left hb => hrow ?_, fun hb => hrow ?_⟩⟩
    all_goals
      unfold State.runRollcallStop
      simp only [executing_stream]
    · rw [hnone]
      rfl
    · simp only [hst, hb]
      rfl
    · rw [hst]
      cases hbody : st.body with
      | once next left => simp only [hbody]; rfl
      | step next left => exact absurd hbody (hb next left)
      | profile r left held => simp only [hbody]; rfl
  · intro h r
    obtain ⟨e, he⟩ := Option.isSome_iff_exists.1 he
    have hrow {st : Status} {fs : List Byte} {t : State} {b : Bool} (hran : (s.executing h).runProfile z d = .done st fs t b) :
        exec (.profile tag z d) s = .next (t.answer h st fs b) := exec_runKind rfl hs hr hran
    refine ⟨fun hnone => hrow (runProfile_none (s := s.executing h) he hnone), fun n hn => ?_⟩
    have hprofile := runProfile_some (s := s.executing h) he hn
    intro header
    have hfree (hnone : s.stream = none) : ¬ (s.executing h).stream.isSome = true := by simp [hnone]
    have hheader : (s.executing h).headerFields r n = header := by
      have hrequired (q : Required) : (s.executing h).requiredFields q =
          le 2 q.meter ++
            le 4 (match s.meter q.meter with
              | none => 0
              | some m => m.tag) ++
            [match q.role with
              | .inflow => (0 : Byte)
              | .outflow => 1] := by
        unfold State.requiredFields
        rw [executing_meter]
        cases s.meter q.meter <;> cases q.role <;> rfl
      simp only [State.headerFields, markBytes_eq, List.flatMap_congr fun q _ => hrequired q]
      have hsurvey : leBool (r.desc = 2) = [if d = 2 then (1 : Byte) else 0] := by
        by_cases hd : d = 2 <;> simp [leBool, r, hd]
      rw [hsurvey]
      rfl
    refine ⟨fun hbusy => hrow (hprofile.trans (if_pos hbusy)), fun hnone harmed => hrow (hprofile.trans ((if_neg (hfree hnone)).trans (if_pos harmed))),
      fun hnone harmed => hrow (hprofile.trans ((if_neg (hfree hnone)).trans ((if_neg harmed).trans ?_)))⟩
    rw [hheader]
    rfl
  · intro h
    have hrow {st : Status} {fs : List Byte} {t : State} {b : Bool} (hran : (s.executing h).runRollcallNext = .done st fs t b) :
        exec (.rollcallNext tag) s = .next (t.answer h st fs b) := exec_runKind rfl hs rfl hran
    refine ⟨fun hnone => hrow ?_, fun st hst => ⟨fun hb => hrow ?_, fun first left hb h1 h2 h3 => ?_⟩⟩
    · unfold State.runRollcallNext
      rw [executing_stream, hnone]
      rfl
    · unfold State.runRollcallNext
      rw [executing_stream, hst]
      cases hbody : st.body with
      | once next left => simp only [hbody]; rfl
      | step next left => exact absurd hbody (hb next left)
      | profile r left held => simp only [hbody]; rfl
    · intro zoneAt'
      refine ⟨fun hnone => hrow ?_, fun k hk hdef hfirst => hrow ?_⟩
      · exact runRollcallNext_end (s := s.executing h) hst hb h1 h2 (definedPlaces_nil (s := s.executing h) hnone)
      · obtain ⟨ks, hks⟩ := definedPlaces_cons (s := s.executing h) hk hdef hfirst
        refine (runRollcallNext_zone (s := s.executing h) hst hb h1 h2 hks).trans ?_
        rw [← Nat.sub_sub]
        rfl

end Sys2Proof.Machine

end

/-! The Chain Unit: taking a reading, the chain decision, segments in the slots of a night (R40, R51 to R63). -/

section

namespace Sys2Proof.Machine

/-! ### Taking a reading and deciding on it (R40, R51) -/

theorem waits_iff (l : Link) : l.waits = true ↔ ∃ h, l.head = some { held := h, reply := none } := by
  unfold Link.waits
  cases hh : l.head with
  | none => simp
  | some x =>
    obtain ⟨h, rep⟩ := x
    cases rep <;> simp

theorem exec_takeReading {s : State} (hlive : s.link.resetLow = false) : exec .takeReading s = .next s.takeReading.afterwards :=
  congrArg Host.Outcome.next (live_high hlive _)

theorem takeReading_none {s : State} (h : s.chain ≠ .idle ∨ s.intake.queue = [] ∨ s.link.waits = true) : s.takeReading = s := by
  unfold State.takeReading
  split
  · rename_i w rest hchain hqueue
    obtain h | h | h := h
    · exact absurd hchain h
    · rw [hqueue] at h
      cases h
    · exact if_pos h
  · rfl

/-- Settles O36: by the part's condition for each row. -/
theorem chainUnitTakesAndDecides : Obligations.ChainUnitTakesAndDecides := by
  unfold Obligations.ChainUnitTakesAndDecides
  refine ⟨fun s hlive => ⟨fun w rest hchain hqueue hhead => ?_, fun hno => ?_⟩,
    fun s hlive => ⟨fun w m hchain hm => ?_, fun hno => ?_⟩⟩
  · have hfree : ¬ s.link.waits = true := fun h => by
      obtain ⟨x, hx⟩ := (waits_iff _).1 h
      exact hhead x hx
    rw [exec_takeReading hlive]
    unfold State.takeReading
    rw [hchain, hqueue]
    exact congrArg (fun t => Host.Outcome.next (State.afterwards t)) (if_neg hfree)
  · rw [exec_takeReading hlive, takeReading_none (hno.imp_right (Or.imp_right (waits_iff _).2))]
  · intro d u
    rw [execChainDecision_of_live hlive]
    unfold State.chainDecision
    simp only [hchain, hm]
    cases (m.decide w.reading).change <;> rfl
  · rw [execChainDecision_of_live hlive]
    unfold State.chainDecision
    cases hchain : s.chain with
    | idle => rfl
    | inHand w => exact absurd hchain (hno w)
    | applying a => rfl

/-! ### The chain decision (R53 to R57) -/

/-- A reading whose timestamp the chain holds is compared with the reading of that timestamp. -/
theorem Meter.decide_of_repeat {m : Meter} {r x : Reading} (hcut : ∀ c, m.cut = some c → c ≤ r.time)
    (hsorted : m.chain.Pairwise fun a b => a.time < b.time) (hx : x ∈ m.chain) (ht : x.time = r.time) :
    m.decide r = if m.sameRegisters x r then m.drop none [] else m.drop (some .conflict) [.conflict] := by
  have hfind : m.chain.find? (fun y => y.time = r.time) = some x := by
    obtain ⟨before, after, hsplit⟩ := List.append_of_mem hx
    rw [hsplit] at hsorted ⊢
    refine List.find?_eq_some_iff_append.2 ⟨by simpa using ht, before, after, rfl, fun y hy => ?_⟩
    have hlt := (List.pairwise_append.1 hsorted).2.2 y hy x List.mem_cons_self
    have hne : y.time ≠ r.time := by omega
    simpa using hne
  rw [Meter.decide_of_not_before_cut hcut, Meter.decide]
  simp only [hfind, Option.any_none, Bool.false_eq_true, if_false]
  rfl

/-- A reading between the earlier and the later readings of a chain is inserted there. -/
theorem Meter.decide_of_between {m : Meter} {r : Reading} {before after : List Reading} (hcut : ∀ c, m.cut = some c → c ≤ r.time)
    (hchain : m.chain = before ++ after) (hbefore : ∀ x ∈ before, x.time < r.time) (hafter : ∀ x ∈ after, r.time < x.time) :
    m.decide r = m.insert r before after := by
  have hnone : m.chain.find? (fun y => y.time = r.time) = none := by
    refine List.find?_eq_none.2 fun y hy => ?_
    rw [hchain] at hy
    have hne : y.time ≠ r.time := by
      obtain hy | hy := List.mem_append.1 hy
      · exact (hbefore y hy).ne
      · exact (hafter y hy).ne'
    simpa using hne
  have hearlier : (m.chain.filter fun x => x.time < r.time) = before := by
    have hnil : (after.filter fun x => x.time < r.time) = [] :=
      List.filter_eq_nil_iff.2 fun x hx => by simpa using (hafter x hx).le
    rw [hchain, List.filter_append, hnil, List.append_nil]
    exact List.filter_eq_self.2 fun x hx => by simpa using hbefore x hx
  have hlater : (m.chain.filter fun x => r.time < x.time) = after := by
    have hnil : (before.filter fun x => r.time < x.time) = [] :=
      List.filter_eq_nil_iff.2 fun x hx => by simpa using (hbefore x hx).le
    rw [hchain, List.filter_append, hnil, List.nil_append]
    exact List.filter_eq_self.2 fun x hx => by simpa using hafter x hx
  rw [Meter.decide_of_not_before_cut hcut, Meter.decide]
  simp only [hnone, Option.any_none, Bool.false_eq_true, if_false, hearlier, hlater]
  rfl

theorem Meter.sameRegisters_iff (m : Meter) (x r : Reading) :
    m.sameRegisters x r = true ↔ x.forward = r.forward ∧ (m.kind = .bidir → x.reverse = r.reverse) := by
  simp [Meter.sameRegisters, ← imp_iff_not_or]

/-- A chain of at most nine readings keeps its newest eight. -/
theorem trim_eq {l : List Reading} (h : l.length ≤ 9) : trim l = l.drop (l.length - 8) := by
  unfold trim
  split
  · rw [show l.length - 8 = 1 by omega]
  · rw [show l.length - 8 = 0 by omega, List.drop_zero]

theorem trim_of_short {l : List Reading} (h : l.length ≤ 8) : trim l = l := if_neg (Nat.not_lt.2 h)

/-- Settles O38: by where the reading's timestamp falls in the chain. -/
theorem chainDecisionByTheChain : Obligations.ChainDecisionByTheChain := by
  unfold Obligations.ChainDecisionByTheChain
  intro m r hcut hsorted hlen codes newest
  refine ⟨fun x hx ht hf hrev => ?_, fun x hx ht hdiffer => ?_, fun hnil => ?_, fun l a hl ha => ?_, fun b l hl hb => ?_,
    fun l1 a b l2 hl ha hb => ?_⟩
  · rw [Meter.decide_of_repeat hcut hsorted hx ht, if_pos ((m.sameRegisters_iff x r).2 ⟨hf, hrev⟩)]
    rfl
  · rw [Meter.decide_of_repeat hcut hsorted hx ht, if_neg]
    · rfl
    · rw [Meter.sameRegisters_iff]
      rintro ⟨hf, hrev⟩
      obtain h | ⟨hk, h⟩ := hdiffer
      · exact h hf
      · exact h (hrev hk)
  · rw [Meter.decide_of_between (before := []) (after := []) hcut hnil (by simp) (by simp)]
    rfl
  · rw [hl] at hsorted hlen
    have hbefore : ∀ x ∈ l ++ [a], x.time < r.time := fun x hx => by
      obtain hx | hx := List.mem_append.1 hx
      · exact ((List.pairwise_append.1 hsorted).2.2 x hx a List.mem_cons_self).trans ha
      · rw [List.mem_singleton.1 hx]
        exact ha
    rw [Meter.decide_of_between (before := l ++ [a]) (after := []) hcut (by simp [hl]) hbefore (by simp)]
    have hnewest : newest (m.chain ++ [r]) = trim (m.chain ++ [r]) := by
      refine (trim_eq ?_).symm
      rw [hl, List.length_append, List.length_singleton]
      omega
    rw [hnewest, hl]
    simp [Meter.insert, enter, enteringCodes, codes]
  · rw [hl] at hsorted
    have hafter : ∀ x ∈ b :: l, r.time < x.time := fun x hx => by
      obtain rfl | hx := List.mem_cons.1 hx
      · exact hb
      · exact hb.trans ((List.pairwise_cons.1 hsorted).1 x hx)
    rw [Meter.decide_of_between (before := []) (after := b :: l) hcut (by simp [hl]) (by simp) hafter]
    refine ⟨fun hfull => ?_, fun hroom => ?_⟩
    · simp only [Meter.insert, List.getLast?_nil, List.head?_cons, hfull, lt_irrefl, if_false]
      rfl
    · simp only [Meter.insert, List.getLast?_nil, List.head?_cons, if_pos hroom]
      rw [enter, List.nil_append, ← hl, trim_of_short (by simpa using hroom)]
      rfl
  · rw [hl] at hsorted hlen
    obtain ⟨hfront, hback, hacross⟩ := List.pairwise_append.1 hsorted
    have hbefore : ∀ x ∈ l1 ++ [a], x.time < r.time := fun x hx => by
      obtain hx | hx := List.mem_append.1 hx
      · exact (hacross x hx a List.mem_cons_self).trans ha
      · rw [List.mem_singleton.1 hx]
        exact ha
    have hafter : ∀ x ∈ b :: l2, r.time < x.time := fun x hx => by
      obtain rfl | hx := List.mem_cons.1 hx
      · exact hb
      · exact hb.trans ((List.pairwise_cons.1 (List.pairwise_cons.1 hback).2).1 x hx)
    rw [Meter.decide_of_between (before := l1 ++ [a]) (after := b :: l2) hcut (by simp [hl]) hbefore hafter]
    have hnewest : newest (l1 ++ a :: r :: b :: l2) = trim (l1 ++ a :: r :: b :: l2) := by
      refine (trim_eq ?_).symm
      simp only [List.length_append, List.length_cons] at hlen ⊢
      omega
    rw [hnewest]
    simp [Meter.insert, enter, enteringCodes, codes]

/-! ### Segments in the slots of a night (R60 to R63, R78) -/

theorem Slot.place_apart {L a : Nat} {g : Segment} (h : g.overlaps a (a + L) = false) (pos : Nat) (role : Role) (x : Slot) :
    Slot.place L g pos role a x = x := if_neg (by simp [h])

theorem Slot.withdraw_apart {L a : Nat} {g : Segment} (h : g.overlaps a (a + L) = false) (pos : Nat) (role : Role) (x : Slot) :
    Slot.withdraw L g pos role a x = x := if_neg (by simp [h])

theorem addVolume_inflow (x : Slot) (role : Role) (v : Int) : (x.addVolume role v).inflow = x.inflow + if role = .inflow then v else 0 := by
  cases role <;> simp [Slot.addVolume]

theorem addVolume_outflow (x : Slot) (role : Role) (v : Int) :
    (x.addVolume role v).outflow = x.outflow + if role = .outflow then v else 0 := by
  cases role <;> simp [Slot.addVolume]

theorem addVolume_covered (x : Slot) (role : Role) (v : Int) : (x.addVolume role v).covered = x.covered := by cases role <;> rfl

theorem place_good {g : Segment} {n : Night} {meter pos : Nat} {role : Role} (hg : g.bad = none)
    (hp : n.position meter = some (pos, role)) (L : Nat) :
    n.place L meter g = { n with slots := mapSlots L (Slot.place L g pos role) n.start n.slots } := by
  unfold Night.place
  rw [hg, hp]

theorem withdraw_good {g : Segment} {n : Night} {meter pos : Nat} {role : Role} (hg : g.bad = none)
    (hp : n.position meter = some (pos, role)) (L : Nat) :
    n.withdraw L meter g = { n with slots := mapSlots L (Slot.withdraw L g pos role) n.start n.slots } := by
  unfold Night.withdraw
  rw [hg, hp]

theorem place_bad {g : Segment} (hg : g.bad ≠ none) (L meter : Nat) (n : Night) : n.place L meter g = n := by
  unfold Night.place
  cases h : g.bad with
  | none => exact absurd h hg
  | some c => rfl

theorem withdraw_bad {g : Segment} (hg : g.bad ≠ none) (L meter : Nat) (n : Night) : n.withdraw L meter g = n := by
  unfold Night.withdraw
  cases h : g.bad with
  | none => exact absurd h hg
  | some c => rfl

theorem place_unrequired {n : Night} {meter : Nat} (h : n.position meter = none) (L : Nat) (g : Segment) : n.place L meter g = n := by
  unfold Night.place
  rw [h]
  cases g.bad <;> rfl

theorem withdraw_unrequired {n : Night} {meter : Nat} (h : n.position meter = none) (L : Nat) (g : Segment) :
    n.withdraw L meter g = n := by
  unfold Night.withdraw
  rw [h]
  cases g.bad <;> rfl

theorem withdraw_frame (L meter : Nat) (g : Segment) (n : Night) : { n.withdraw L meter g with slots := n.slots } = n := by
  unfold Night.withdraw
  split <;> rfl

theorem positionFrom_eq_none {k meter : Nat} {qs : List Required} : positionFrom k meter qs = none ↔ ∀ q ∈ qs, q.meter ≠ meter := by
  induction qs generalizing k with
  | nil => simp [positionFrom]
  | cons q rest ih =>
    unfold positionFrom
    by_cases h : q.meter = meter
    · simp [h]
    · simp [h, ih]

/-- Only the good segments of a list are placed. -/
theorem placeAll_good (L meter : Nat) (gs : List Segment) (n : Night) :
    n.placeAll L meter gs = (gs.filter fun g => g.bad = none).foldl (fun x g => x.place L meter g) n := by
  unfold Night.placeAll
  induction gs generalizing n with
  | nil => rfl
  | cons g rest ih =>
    rw [List.foldl_cons, ih, List.filter_cons]
    by_cases hg : g.bad = none
    · simp [hg]
    · simp [hg, place_bad hg]

theorem placeAll_unrequired {n : Night} {meter : Nat} (h : n.position meter = none) (L : Nat) (gs : List Segment) :
    n.placeAll L meter gs = n := by
  unfold Night.placeAll
  induction gs with
  | nil => rfl
  | cons g rest ih => rw [List.foldl_cons, place_unrequired h, ih]

theorem change_frame (L meter : Nat) (old : Option Segment) (new : List Segment) (n : Night) :
    { n.change L meter old new with slots := n.slots } = n := by
  cases old with
  | none => exact placeAll_frame _ _ _ _
  | some g =>
    have h := congrArg (fun x : Night => { x with slots := n.slots }) (placeAll_frame L meter new (n.withdraw L meter g))
    exact h.trans (withdraw_frame L meter g n)

/-- Settles O42: slot by slot, and for a change by the good segments of its list. -/
theorem placingAddsSharesToSlots : Obligations.PlacingAddsSharesToSlots := by
  unfold Obligations.PlacingAddsSharesToSlots
  refine ⟨fun L g n meter pos role k x hg hp hx => ?_, fun L meter n old new => ⟨?_, fun g => ?_, fun hno => ?_, ?_, ?_⟩⟩
  · intro a
    have hplace : (n.place L meter g).slots[k]? = some (Slot.place L g pos role a x) := by
      rw [place_good hg hp, mapSlots_getElem?, hx]
      rfl
    have hwithdraw : (n.withdraw L meter g).slots[k]? = some (Slot.withdraw L g pos role a x) := by
      rw [withdraw_good hg hp, mapSlots_getElem?, hx]
      rfl
    refine ⟨fun hapart => ⟨?_, ?_⟩, fun ho => ⟨_, _, hplace, hwithdraw, ?_⟩⟩
    · rw [hplace, Slot.place_apart hapart]
    · rw [hwithdraw, Slot.withdraw_apart hapart]
    · simp only [Slot.place, Slot.withdraw, if_pos ho, addVolume_inflow, addVolume_outflow]
      refine ⟨trivial, trivial, ?_, ?_, fun c hc => ⟨?_, ?_⟩, fun p hne => ⟨?_, ?_⟩⟩
      · split <;> omega
      · split <;> omega
      · simp [hc]
      · simp [hc]
      · simp [Ne.symm hne]
      · simp [Ne.symm hne]
  · exact placeAll_good L meter new n
  · by_cases hg : g.bad = none
    · rw [if_pos hg]
      rfl
    · rw [if_neg hg]
      exact congrArg (Night.placeAll L meter new) (withdraw_bad hg L meter n)
  · have hnone : n.position meter = none := positionFrom_eq_none.2 hno
    cases old with
    | none => exact placeAll_unrequired hnone L new
    | some g =>
      rw [Night.change, withdraw_unrequired hnone]
      exact placeAll_unrequired hnone L new
  · exact change_frame L meter old new n
  · exact change_length L meter old new n

end Sys2Proof.Machine

end

/-! The Chain Unit: reaching the nights of an application (R51, R53, R61 to R66, R80, R84). -/

section

namespace Sys2Proof.Machine

/-! ### Which nights an application has still to reach (R51) -/

theorem mem_zoneNights {z : Nat} {v : Zone} {r : NightRef} : r ∈ (v.nights z).map (·.1) ↔ r.zone = z ∧ (v.night r.desc).isSome := by
  constructor
  · intro h
    obtain ⟨p, hp, rfl⟩ := List.mem_map.1 h
    obtain ⟨-, hz, hn⟩ := mem_nights_desc hp
    exact ⟨hz, by rw [hn]; rfl⟩
  · rintro ⟨rfl, hn⟩
    obtain ⟨n, hn⟩ := Option.isSome_iff_exists.1 hn
    have hdesc : r.desc ∈ [0, 1, 2] := by
      obtain ⟨z, d⟩ := r
      match d, hn with
      | 0, _ => exact List.mem_cons_self
      | 1, _ => exact List.mem_cons_of_mem _ List.mem_cons_self
      | 2, _ => exact List.mem_cons_of_mem _ (List.mem_cons_of_mem _ List.mem_cons_self)
      | _ + 3, hn => cases hn
    exact List.mem_map.2 ⟨(r, n), List.mem_filterMap.2 ⟨r.desc, hdesc, by rw [hn]; rfl⟩, rfl⟩

theorem mem_meterZones {m : Meter} {z : Nat} : z ∈ m.zones ↔ z ≠ 0 ∧ (z = m.upstream ∨ z = m.downstream) := by
  simp [Meter.zones, and_comm]

theorem mem_unreached {s : State} {a : Application} {m : Meter} (hm : s.meter a.waiting.meter = some m) (r : NightRef) :
    r ∈ s.unreached a ↔ r.zone ≠ 0 ∧ (r.zone = m.upstream ∨ r.zone = m.downstream) ∧ (s.night r).isSome ∧ r ∉ a.reached := by
  unfold State.unreached
  rw [hm]
  simp only [List.mem_filter, List.mem_flatMap, mem_zoneNights, Bool.not_eq_true', List.contains_eq_mem, decide_eq_false_iff_not]
  constructor
  · rintro ⟨⟨z, hz, rfl, hn⟩, hreached⟩
    obtain ⟨hz0, hzone⟩ := mem_meterZones.1 hz
    exact ⟨hz0, hzone, hn, hreached⟩
  · rintro ⟨hz0, hzone, hn, hreached⟩
    exact ⟨⟨r.zone, mem_meterZones.2 ⟨hz0, hzone⟩, rfl, hn⟩, hreached⟩

/-! ### What a night is handed (R61, R64, R65, R84) -/

theorem tracked_iff (n : Night) : n.tracked = true ↔ n.state = .opened ∨ n.state = .closing ∨ n.state = .draining := by
  simp [Night.tracked, or_assoc]

theorem frozen_iff (n : Night) : n.frozen = true ↔ n.state = .queued ∨ n.state = .assessing := by
  simp [Night.frozen]

theorem requires_iff (n : Night) (i : Nat) : n.requires i = true ↔ ∃ q ∈ n.required, q.meter = i := by
  have hnone : n.position i = none ↔ ∀ q ∈ n.required, q.meter ≠ i := positionFrom_eq_none
  rw [Night.requires, Option.isSome_iff_ne_none, Ne, hnone]
  push Not
  rfl

theorem receive_clean {n : Night} (ht : n.tracked = true) (hq : n.quality = .clean) (q : Quality) :
    n.receive q = { n with quality := q } := if_pos (by simp [ht, hq])

theorem receive_kept {n : Night} (h : n.tracked = false ∨ n.quality ≠ .clean) (q : Quality) : n.receive q = n :=
  if_neg (by obtain h | h := h <;> simp [h])

/-- A defect received twice is received once: the first one stays. -/
theorem receive_receive (n : Night) (q : Quality) : (n.receive q).receive q = n.receive q := by
  by_cases h : n.tracked = true ∧ n.quality = .clean
  · rw [receive_clean h.1 h.2]
    by_cases hq : q = .clean
    · rw [receive_clean (n := { n with quality := q }) h.1 hq]
    · exact receive_kept (n := { n with quality := q }) (.inr hq) q
  · have hkept : n.tracked = false ∨ n.quality ≠ .clean := by
      obtain ht | hq := not_and_or.1 h
      · exact .inl (by simpa using ht)
      · exact .inr hq
    rw [receive_kept hkept, receive_kept hkept]

/-- The defect a segment hands, as a list. -/
theorem defect_toList (g : Segment) :
    g.defect.toList = if g.bad = some .spike then [.spike] else if g.bad = some .noisy then [.noisy] else [] := by
  unfold Segment.defect
  cases hb : g.bad with
  | none => rfl
  | some c => cases c <;> rfl

theorem handedDefects_eq (L i : Nat) (n : Night) (new : List Segment) :
    handedDefects L i n new = ((new.filter fun g => n.concernedBy L i g).map fun g => g.defect.toList).flatten := by
  unfold handedDefects
  induction new with
  | nil => rfl
  | cons g rest ih =>
    rw [List.filterMap_cons, List.filter_cons]
    by_cases hg : n.concernedBy L i g = true
    · rw [if_pos hg, if_pos hg, List.map_cons, List.flatten_cons, ← ih]
      cases g.defect <;> rfl
    · rw [if_neg hg, if_neg hg, ih]

/-- A segment changes a night unless it is bad for a GAP. -/
theorem changes_iff (g : Segment) : (g.bad.isNone || g.defect.isSome) = true ↔ g.bad ≠ some .gap := by
  unfold Segment.defect
  cases hb : g.bad with
  | none => simp
  | some c => cases c <;> simp [BadCause.defect]

theorem wouldChange_segments (L i : Nat) (n : Night) (old : Option Segment) (new : List Segment) :
    ChainChange.wouldChange L i n (.segments old new) = true ↔
      (∃ g, old = some g ∧ g.bad = none ∧ n.concernedBy L i g = true) ∨
        ∃ g ∈ new, g.bad ≠ some .gap ∧ n.concernedBy L i g = true := by
  unfold ChainChange.wouldChange
  simp only [Bool.or_eq_true, List.any_eq_true, Bool.and_eq_true, ← changes_iff, Option.any_eq_true, Option.isNone_iff_eq_none]

/-! ### A night reached (R51, R53, R62 to R66) -/

theorem exec_placement {s : State} (hlive : s.link.resetLow = false) (z d : Nat) :
    exec (.placement z d) s = .next (s.placement { zone := z, desc := d }).afterwards :=
  congrArg Host.Outcome.next (live_high hlive _)

/-- A night the application has still to reach, by whether it is tracked, frozen or ARMED. -/
theorem placement_unreached {s : State} {r : NightRef} {a : Application} {n : Night} (ha : s.chain = .applying a)
    (hn : s.night r = some n) (hr : r ∈ s.unreached a) :
    s.placement r =
      if n.tracked then ((s.reachTracked a r n).noteReached r false).quiesce
      else if n.frozen then
        ((s.reachFrozen a r n).noteReached r (a.change.wouldChange s.slotSeconds a.waiting.meter n)).quiesce
      else (s.noteReached r false).quiesce := by
  unfold State.placement
  rw [ha, hn]
  exact if_pos (by simpa using hr)

theorem placement_none {s : State} {r : NightRef}
    (h : (∀ a, s.chain ≠ .applying a) ∨ ∃ a, s.chain = .applying a ∧ r ∉ s.unreached a) : s.placement r = s := by
  unfold State.placement
  split
  · rename_i a n ha hn
    obtain h | ⟨b, hb, h⟩ := h
    · exact absurd ha (h a)
    · obtain rfl : b = a := by simpa [ha] using hb.symm
      exact if_neg (by simpa using h)
  · rfl

/-- A tracked night reached by segments, `m` being the night after the change and its defects. -/
theorem reachTracked_segments {s t : State} {a : Application} {r : NightRef} {n : Night} {old : Option Segment} {new : List Segment}
    {ds : List Quality} (ha : a.change = .segments old new)
    (hds : orderDefects (handedDefects s.slotSeconds a.waiting.meter n new) s = (ds, t)) :
    s.reachTracked a r n =
      (t.setNight r (some ((n.change s.slotSeconds a.waiting.meter old new).receiveAll ds))).earlyCompletion r := by
  unfold State.reachTracked
  simp only [ha, hds]

theorem reachTracked_conflict {s : State} {a : Application} (ha : a.change = .conflict) (r : NightRef) (n : Night) :
    s.reachTracked a r n =
      if n.holdsTime s.slotSeconds a.waiting.meter a.waiting.reading.time then
        (s.setNight r (some (n.receive .conflict))).earlyCompletion r
      else s.earlyCompletion r := by
  unfold State.reachTracked
  simp only [ha]

/-- Two different defects are received in an order the world chooses. -/
theorem orderDefects_two {p q : Quality} (hne : p ≠ q) (s : State) :
    ∃ (first second : Quality) (w : List Nat) (c : Nat), ((first = p ∧ second = q) ∨ (first = q ∧ second = p)) ∧
      orderDefects [p, q] s = ([first, second], { s with world := w, choices := c }) := by
  obtain ⟨w, c, hs⟩ := choose_eq 2 s
  unfold orderDefects
  simp only [if_neg hne, hs]
  by_cases hi : (choose 2 s).1 = 0
  · exact ⟨p, q, w, c, .inl ⟨rfl, rfl⟩, by rw [if_pos hi]⟩
  · exact ⟨q, p, w, c, .inr ⟨rfl, rfl⟩, by rw [if_neg hi]⟩

theorem holdsTime_iff (L i time : Nat) (n : Night) :
    n.holdsTime L i time = true ↔ n.requires i = true ∧ n.start ≤ time ∧ time < n.windowEnd L := by
  simp [Night.holdsTime, and_assoc]

theorem not_tracked_of_frozen {n : Night} (h : n.frozen = true) : ¬ n.tracked = true := by
  rw [tracked_iff]
  obtain h | h := (frozen_iff n).1 h <;> simp [h]

theorem earlyCompletion_eq {s : State} {r : NightRef} {n : Night} (hn : s.night r = some n) :
    s.earlyCompletion r = if n.state = .closing && n.complete s.slotSeconds then s.enterDraining r else s := by
  unfold State.earlyCompletion
  rw [hn]

/-- Settles O41: by the state of the night and by what the application carries. -/
theorem placementReachesOneNight : Obligations.PlacementReachesOneNight := by
  unfold Obligations.PlacementReachesOneNight
  refine ⟨fun s z d a n => ?_, fun s z d hlive hno => ?_, fun n => ⟨tracked_iff n, frozen_iff n, requires_iff n,
    fun q => ⟨fun ht hq => receive_clean ht hq q, fun h => receive_kept h q⟩⟩, fun L i n old new => ?_,
    fun s r => ⟨fun n hn => ?_, fun a late ha => ?_, fun a m hm => mem_unreached hm r⟩⟩
  · intro r L i time hlive ha hn hr
    have hplace := placement_unreached ha hn hr
    have hrow {t : State} (h : s.placement r = t) : exec (.placement z d) s = .next t.afterwards := by
      rw [← h]
      exact exec_placement hlive z d
    have hreach (ht : n.tracked = true) {t : State} (h : s.reachTracked a r n = t) :
        exec (.placement z d) s = .next ((t.noteReached r false).quiesce).afterwards := by
      subst h
      exact hrow (hplace.trans (if_pos ht))
    refine ⟨fun ht => ⟨fun old new hchange => ⟨fun hds => hreach ht ?_, fun q hds => hreach ht ?_, fun p q hds hne => ?_⟩,
      fun hchange => ⟨fun hreq hstart hstop => hreach ht ?_, fun hout => hreach ht ?_⟩⟩,
      fun hf => ⟨fun hw => hrow ?_, fun hw => hrow ?_⟩, fun harmed => hrow ?_⟩
    · refine reachTracked_segments hchange (ds := []) ?_
      rw [show handedDefects s.slotSeconds a.waiting.meter n new = [] from hds]
      rfl
    · obtain hds | hds := hds
      · refine reachTracked_segments hchange (ds := [q]) ?_
        rw [show handedDefects s.slotSeconds a.waiting.meter n new = [q] from hds]
        rfl
      · have hreached := reachTracked_segments (r := r) (t := s) (ds := [q, q]) hchange (by
          rw [show handedDefects s.slotSeconds a.waiting.meter n new = [q, q] from hds]
          exact if_pos rfl)
        rw [hreached]
        simp only [Night.receiveAll, List.foldl_cons, List.foldl_nil, receive_receive]
        rfl
    · obtain ⟨first, second, w, c, horder, heq⟩ := orderDefects_two hne s
      refine ⟨first, second, w, c, horder, ?_⟩
      refine hreach ht (reachTracked_segments hchange (ds := [first, second]) ?_)
      rw [show handedDefects s.slotSeconds a.waiting.meter n new = [p, q] from hds]
      exact heq
    · exact (reachTracked_conflict hchange r n).trans (if_pos ((holdsTime_iff _ _ _ n).2 ⟨hreq, hstart, hstop⟩))
    · refine (reachTracked_conflict hchange r n).trans (if_neg fun h => ?_)
      obtain ⟨hreq, hstart, hstop⟩ := (holdsTime_iff _ _ _ n).1 h
      obtain hout | hout | hout := hout
      · exact Bool.false_ne_true (hout.symm.trans hreq)
      · exact absurd hstart (Nat.not_le.2 hout)
      · exact absurd hstop (Nat.not_lt.2 hout)
    · refine hplace.trans ((if_neg (not_tracked_of_frozen hf)).trans ((if_pos hf).trans ?_))
      rw [show a.change.wouldChange s.slotSeconds a.waiting.meter n = true from hw]
      exact congrArg (fun t : State => (t.noteReached r true).quiesce) (if_pos hw)
    · refine hplace.trans ((if_neg (not_tracked_of_frozen hf)).trans ((if_pos hf).trans ?_))
      rw [show a.change.wouldChange s.slotSeconds a.waiting.meter n = false from hw]
      exact congrArg (fun t : State => (t.noteReached r false).quiesce) (if_neg fun h => Bool.false_ne_true (hw.symm.trans h))
    · refine hplace.trans ((if_neg ?_).trans (if_neg ?_))
      · rw [tracked_iff]
        simp [harmed]
      · rw [frozen_iff]
        simp [harmed]
  · rw [exec_placement hlive, placement_none hno]
  · intro concerned
    refine ⟨?_, rfl, wouldChange_segments L i n old new⟩
    rw [handedDefects_eq]
    simp only [defect_toList]
    rfl
  · intro complete
    refine ⟨fun hclosing hcomplete => ?_, fun hno => ?_⟩
    · exact (earlyCompletion_eq hn).trans (if_pos (Bool.and_eq_true_iff.2 ⟨decide_eq_true hclosing, hcomplete⟩))
    · refine (earlyCompletion_eq hn).trans (if_neg fun h => ?_)
      obtain ⟨hclosing, hcomplete⟩ := Bool.and_eq_true_iff.1 h
      obtain hno | hno := hno
      · exact hno (of_decide_eq_true hclosing)
      · exact Bool.false_ne_true (hno.symm.trans hcomplete)
  · unfold State.noteReached
    rw [ha]

end Sys2Proof.Machine

end

/-! Clock advances: the acts that may come next and what each does (R20, R22 to R28, R33, R45, R46). -/

section

namespace Sys2Proof.Machine

/-! ### The instants of a zone (R23, R26 to R28, R33) -/

theorem instant_iff {L z d x : Nat} {n : Night} {i : Act} :
    n.instant L { zone := z, desc := d } = some (x, i) ↔
      (n.state = .armed ∧ d = 2 ∧ x = n.start ∧ i = .surveyStart z) ∨
        (n.state = .opened ∧ x = n.windowEnd L ∧ i = .windowEnd { zone := z, desc := d }) ∨
        (n.state = .closing ∧ x = n.deadline ∧ i = .deadline { zone := z, desc := d }) := by
  unfold Night.instant
  cases n.state with
  | armed =>
    by_cases hd : d = 2
    · simp [hd, eq_comm]
    · simp [hd]
  | opened => simp [eq_comm]
  | closing => simp [eq_comm]
  | draining => simp
  | queued => simp
  | assessing => simp

/-- The instants of a zone, each with its act and its conditions. -/
theorem mem_instants_iff {s : State} {t0 t1 z cursor x : Nat} {i : Act} :
    (x, i) ∈ s.instants t0 t1 z cursor ↔
      (∃ e win, s.entry z = some e ∧ e.window = some win ∧ x = nextStart win.start cursor ∧ x ≤ t1 ∧ i = .regularStart z x) ∨
        ∃ d n, d < 3 ∧ s.night { zone := z, desc := d } = some n ∧ t0 < x ∧ x ≤ t1 ∧
          ((n.state = .armed ∧ d = 2 ∧ x = n.start ∧ i = .surveyStart z) ∨
            (n.state = .opened ∧ x = n.windowEnd s.slotSeconds ∧ i = .windowEnd { zone := z, desc := d }) ∨
            (n.state = .closing ∧ x = n.deadline ∧ i = .deadline { zone := z, desc := d })) := by
  rw [mem_instants]
  refine or_congr ⟨?_, ?_⟩ ⟨?_, ?_⟩
  · rintro ⟨win, hwin, hle, rfl, rfl⟩
    obtain ⟨e, he, hw⟩ := Option.bind_eq_some_iff.1 hwin
    exact ⟨e, win, he, hw, rfl, hle, rfl⟩
  · rintro ⟨e, win, he, hw, rfl, hle, rfl⟩
    exact ⟨win, Option.bind_eq_some_iff.2 ⟨e, he, hw⟩, hle, rfl, rfl⟩
  · rintro ⟨d, n, hd, hn, hi, h0, h1⟩
    exact ⟨d, n, hd, hn, h0, h1, instant_iff.1 hi⟩
  · rintro ⟨d, n, hd, hn, h0, h1, hi⟩
    exact ⟨d, n, hd, hn, instant_iff.2 hi, h0, h1⟩

/-- What may come next: an announcement that is left, or an act of some zone at the zone's earliest instant. -/
theorem mem_nextActs {s : State} {t0 t1 : Nat} {zones : List (Nat × Nat)} {channels : List Nat} {a : Act} :
    a ∈ s.nextActs t0 t1 zones channels ↔
      (∃ c ∈ channels, a = .announce c) ∨
        ∃ p ∈ zones, ∃ x, (x, a) ∈ s.instants t0 t1 p.1 p.2 ∧ ∀ y i, (y, i) ∈ s.instants t0 t1 p.1 p.2 → x ≤ y := by
  unfold State.nextActs
  simp only [List.mem_append, List.mem_map, List.mem_flatMap, mem_earliest_iff, Prod.forall, eq_comm]

theorem advanceCursors_kept {a : Act} (h : ∀ z w, a ≠ .regularStart z w) (zones : List (Nat × Nat)) :
    advanceCursors a zones = zones := by
  cases a with
  | regularStart z w => exact absurd rfl (h z w)
  | surveyStart z => rfl
  | windowEnd r => rfl
  | deadline r => rfl
  | announce c => rfl

theorem remainingChannels_kept {a : Act} (h : ∀ c, a ≠ .announce c) (channels : List Nat) :
    remainingChannels a channels = channels := by
  cases a with
  | regularStart z w => rfl
  | surveyStart z => rfl
  | windowEnd r => rfl
  | deadline r => rfl
  | announce c => exact absurd rfl (h c)

/-- A window start is the first instant after the cursor at its minute of the day (R26). -/
theorem nextStart_spec {minute : Nat} (h : minute < 1440) (cursor : Nat) :
    nextStart minute cursor % 86400 = 60 * minute ∧ nextStart minute cursor ≤ cursor + 86400 := by
  simp only [nextStart]
  split <;> omega

/-! ### The zones and channels of an advance -/

theorem mem_activeZones {s : State} (hc : Table.wf (some Zone.initial) s.zones = true) (z : Nat) :
    z ∈ s.activeZones ↔ ∃ e, s.entry z = some e ∧ e.active = true := by
  unfold State.activeZones
  rw [List.mem_filterMap]
  constructor
  · rintro ⟨p, hp, h⟩
    split at h
    · rename_i hact
      cases h
      obtain ⟨e, he, hactive⟩ := (Option.any_eq_true _ _).1 hact
      refine ⟨e, ?_, hactive⟩
      rw [State.entry, State.zone, find_of_mem _ _ hc hp]
      exact he
    · cases h
  · rintro ⟨e, he, hactive⟩
    cases hfind : Table.find z s.zones with
    | none =>
      rw [State.entry, State.zone, hfind] at he
      cases he
    | some v =>
      rw [State.entry, State.zone, hfind] at he
      refine ⟨(z, v), mem_of_find hfind, if_pos ?_⟩
      rw [show v.entry = some e from he]
      exact hactive

theorem announced_length_le (s : State) (t1 : Nat) : (s.announced t1).length ≤ 8 := by
  unfold State.announced
  split
  · exact List.length_filter_le _ [0, 1, 2, 3, 4, 5, 6, 7]
  · exact Nat.zero_le 8

/-- An advance in a canonical state takes acts until none is left (R23). -/
theorem advance_run {s : State} (hc : s.canonical) (t1 : Nat) :
    AdvanceRun s.clock.time t1 (lastBoundary s.slotSeconds t1) (s.activeZones.map fun z => (z, s.clock.time))
      ((s.announced t1).filter fun c => (s.boundMeter c).isSome)
      (((s.announced t1).filter fun c => (s.boundMeter c).isNone).foldl State.clearRejected
        { s with clock := { s.clock with time := t1 } })
      (s.advance t1) := by
  obtain ⟨hzones, -, -⟩ := hc
  refine advanceLoop_run _ _ _ _ _ _ _ ?_ (advanceLeft_le _ _ _ _ _ ?_)
  · rw [List.map_map]
    exact (List.map_id _).symm ▸ activeZones_nodup s hzones
  · exact (List.length_filter_le _ _).trans (announced_length_le s t1)

/-! ### A boundary reading (R45, R46) -/

/-- The NOISY mark of a boundary reading: its own test, or the mark of the reading it supersedes. -/
theorem boundaryReading_noisy (s : State) (c b : Nat) :
    s.boundaryReading c b =
      { time := b, forward := (s.channel c).count, reverse := none,
        noisy := some (((s.channel c).noiseLimit ≠ 0 ∧ (s.channel c).noiseLimit < (s.channel c).rejected : Bool) ||
          (match s.intake.queue.find? fun w => w.origin = .channel c with
            | none => false
            | some w => w.reading.noisy = some true)) } := by
  have hcarried : ((s.reserved c).any fun w => w.reading.noisy = some true) =
      (match s.intake.queue.find? fun w => w.origin = .channel c with
        | none => false
        | some w => decide (w.reading.noisy = some true)) := by
    unfold State.reserved
    cases s.intake.queue.find? fun w => w.origin = .channel c with
    | none => rfl
    | some w => rfl
  unfold State.boundaryReading Channel.noisyTest
  simp only [hcarried, Bool.decide_and]

/-- A channel with a bound meter puts its boundary reading into its reserved place. -/
theorem channelActs_bound {s : State} {c i : Nat} {m : Meter} (h : s.boundMeter c = some (i, m)) (b : Nat) :
    s.channelActs c b =
      State.quiesce { s.setChannel c { s.channel c with rejected := 0 } with
        intake :=
          { queue := (s.intake.queue.filter fun w => w.origin ≠ .channel c) ++
              [{ issue := s.intake.next, meter := i, reading := s.boundaryReading c b, origin := .channel c }],
            next := s.intake.next + 1 } } := by
  have hqueue : (s.intake.queue.filter fun w => !decide (w.origin = .channel c)) =
      s.intake.queue.filter fun w => w.origin ≠ .channel c := List.filter_congr fun w _ => decide_not.symm
  unfold State.channelActs
  rw [h, ← hqueue]
  rfl

/-- Settles O21: the advance is a run of its acts (`advance_run`), and each act is the model's own. -/
theorem tickAdvancesOneSecond : Obligations.TickAdvancesOneSecond := by
  unfold Obligations.TickAdvancesOneSecond
  refine ⟨fun s t => ?_, fun s hlive => ⟨fun hrun hlt => ?_, fun hstop => ?_⟩, fun s t1 hc => ?_, fun s t0 t1 zones channels a => ?_,
    fun minute cursor hm => ⟨nextStart_gt _ _, nextStart_spec hm cursor⟩, fun s t1 b => ?_⟩
  · have hframe := advance_frame s t
    exact ⟨hframe.clock, hframe.meters, hframe.settings, hframe.link, hframe.pending, fun z => ⟨hframe.entry z, hframe.verdict z⟩⟩
  · have htick : s.tick = s.advance (s.clock.time + 1) := if_pos (by rw [hrun, Bool.true_and]; exact decide_eq_true_iff.2 hlt)
    exact congrArg Host.Outcome.next ((live_high hlive _).trans (congrArg State.afterwards htick))
  · have htick : s.tick = s := if_neg (by
      rw [Bool.and_eq_true, decide_eq_true_iff]
      rintro ⟨hrun, hlt⟩
      obtain hcold | hlast := hstop
      · rw [hcold] at hrun; cases hrun
      · exact Nat.not_lt.2 hlast hlt)
    exact congrArg Host.Outcome.next ((live_high hlive _).trans (congrArg State.afterwards htick))
  · intro L b announced start
    refine ⟨mem_activeZones hc.1, activeZones_nodup s hc.1, ?_⟩
    have hbound : (announced.filter fun c => s.boundMeter c ≠ none) = (s.announced t1).filter fun c => (s.boundMeter c).isSome :=
      List.filter_congr fun c _ => by cases s.boundMeter c <;> rfl
    have hfree : (announced.filter fun c => s.boundMeter c = none) = (s.announced t1).filter fun c => (s.boundMeter c).isNone :=
      List.filter_congr fun c _ => by cases s.boundMeter c <;> rfl
    have hstart : start = ((s.announced t1).filter fun c => (s.boundMeter c).isNone).foldl State.clearRejected
        { s with clock := { s.clock with time := t1 } } := by rw [← hfree]; rfl
    rw [hbound, hstart]
    exact advance_run hc t1
  · intro taken
    have htaken (z cursor x : Nat) (i : Act) : taken z cursor x i ↔ (x, i) ∈ s.instants t0 t1 z cursor := mem_instants_iff.symm
    refine ⟨?_, fun z w => rfl, fun h => advanceCursors_kept h zones, fun c => rfl, fun h => remainingChannels_kept h channels⟩
    simp only [htaken]
    exact mem_nextActs
  · refine ⟨fun z w => rfl, fun z => rfl, fun r => rfl, fun r => rfl, fun c i m hbound => ?_⟩
    intro v noisy
    have hacts := channelActs_bound hbound b
    rw [boundaryReading_noisy] at hacts
    exact hacts

end Sys2Proof.Machine

end

/-! Window starts: a night opened or skipped (R26, R27, R29, R33, R51, R61, R75 to R78, R85). -/

section

namespace Sys2Proof.Machine

/-! ### The record of a night that opens (R61, R76, R78) -/

/-- A planned night OPEN, with its required set and zeroed slot records, before its placements. -/
def State.freshNight (s : State) (z : Nat) (n : Night) : Night :=
  { n with state := .opened, required := s.boundary z, slots := List.replicate n.slotCount (Slot.zero (s.boundary z).length) }

theorem openedNight_eq (s : State) (z : Nat) (n : Night) :
    s.openedNight z n = s.settleCheck z (s.openingPlacements (s.freshNight z n)) := rfl

theorem openingPlacements_frame (s : State) (n : Night) : { s.openingPlacements n with slots := n.slots } = n :=
  foldOpen_frame s n.required n

/-- One slot record of an opening: the sums of what the required meters place there. -/
theorem openingPlacements_slot {s : State} (hc : s.canonical) (z : Nat) (n : Night) {k : Nat} {y : Slot}
    (hy : (s.openingPlacements (s.freshNight z n)).slots[k]? = some y) :
    let a := n.start + k * s.slotSeconds
    y.inflow = (((s.boundary z).filter fun q => q.role = .inflow).map fun q => (s.placed a (a + s.slotSeconds) q.meter).1).sum ∧
      y.outflow = (((s.boundary z).filter fun q => q.role = .outflow).map fun q => (s.placed a (a + s.slotSeconds) q.meter).1).sum ∧
      y.covered = (s.boundary z).map fun q => (s.placed a (a + s.slotSeconds) q.meter).2 := by
  intro a
  have hk : k < n.slotCount := by
    have hlt := (List.getElem?_eq_some_iff.1 hy).1
    rwa [openingPlacements_length, State.freshNight, List.length_replicate] at hlt
  have hnodup := boundary_nodup s hc.2.1 z
  have hzero : (s.freshNight z n).slots[k]? = some (Slot.zero (s.boundary z).length) := by
    simp [State.freshNight, hk]
  obtain ⟨x, hx, hin, hout, hlen, hcov⟩ :=
    foldOpen_slot s (s.boundary z) (s.freshNight z n) hnodup k a _ rfl (fun _ h => h) hnodup hzero
  obtain rfl : x = y := Option.some.inj (hx.symm.trans hy)
  refine ⟨hin.trans (zero_add _), hout.trans (zero_add _), List.ext_getElem? fun p => ?_⟩
  cases hp : (s.boundary z)[p]? with
  | none =>
    have hge := List.getElem?_eq_none_iff.1 hp
    rw [List.getElem?_map, hp]
    refine List.getElem?_eq_none_iff.2 ?_
    rw [hlen]
    simpa [Slot.zero] using hge
  | some q =>
    obtain ⟨hlt, hq⟩ := List.getElem?_eq_some_iff.1 hp
    rw [hcov p q hp, List.getElem?_map, hp, if_pos (List.mem_of_getElem? hp)]
    simp [Slot.zero, hlt]

/-! ### The settle interval at an opening (R85) -/

theorem settleCheck_frame (s : State) (z : Nat) (n : Night) : { s.settleCheck z n with quality := n.quality } = n := by
  unfold State.settleCheck Night.receive
  split
  · rfl
  · split
    · split <;> rfl
    · rfl

theorem settleCheck_disturbed {s : State} {z : Nat} {n : Night} {e : ZoneEntry} {p : Span} (he : s.entry z = some e)
    (hp : e.settle = some p) (hover : n.overlapsSpan s.slotSeconds p = true) : s.settleCheck z n = n.receive .disturbed := by
  have hbind : (s.entry z).bind (·.settle) = some p := by rw [he]; exact hp
  unfold State.settleCheck
  rw [hbind]
  exact if_pos hover

theorem settleCheck_apart {s : State} {z : Nat} {n : Night}
    (h : ¬ ∃ e p, s.entry z = some e ∧ e.settle = some p ∧ n.overlapsSpan s.slotSeconds p = true) : s.settleCheck z n = n := by
  unfold State.settleCheck
  split
  · rfl
  · rename_i p hp
    obtain ⟨e, he, hsettle⟩ := Option.bind_eq_some_iff.1 hp
    exact if_neg fun hover => h ⟨e, p, he, hsettle, hover⟩

/-- A night whose quality is no longer CLEAN keeps it. -/
theorem settleCheck_unclean {s : State} {z : Nat} {n : Night} (h : n.quality ≠ .clean) : s.settleCheck z n = n := by
  unfold State.settleCheck
  split
  · rfl
  · rw [receive_kept (.inr h)]
    exact ite_self n

theorem overlapsSpan_iff {L : Nat} {n : Night} {p : Span} :
    n.overlapsSpan L p = true ↔ n.start < p.stop ∧ p.start < n.start + n.slotCount * L := by
  rw [Night.overlapsSpan, Bool.and_eq_true, decide_eq_true_iff, decide_eq_true_iff]
  rfl

/-! ### The opening (R51, R75, R77) -/

/-- An application in flight does not reach a night that opens. -/
theorem skipNight_applying {s : State} {a : Application} (r : NightRef) (h : s.chain = .applying a) :
    s.chain.skipNight r = .applying { a with reached := r :: a.reached } := by rw [h]; rfl

theorem skipNight_kept {c : ChainUnit} (r : NightRef) (h : ∀ a, c ≠ .applying a) : c.skipNight r = c := by
  cases c with
  | idle => rfl
  | inHand w => rfl
  | applying a => exact absurd rfl (h a)

theorem not_mem_unreached {s : State} {a : Application} {r : NightRef} (h : r ∈ a.reached) : r ∉ s.unreached a := by
  unfold State.unreached
  split
  · exact List.not_mem_nil
  · intro hmem
    have hnot := (List.mem_filter.1 hmem).2
    rw [List.contains_iff_mem.2 h] at hnot
    cases hnot

theorem openNight_opens (s : State) (r : NightRef) (n : Night) (hr : r.desc < 3) : s.Opens r n (s.openNight r n) := by
  have hframe := openingPlacements_frame s (s.freshNight r.zone n)
  have hsettle := settleCheck_frame s r.zone (s.openingPlacements (s.freshNight r.zone n))
  have hover (p : Span) : (s.openingPlacements (s.freshNight r.zone n)).overlapsSpan s.slotSeconds p = true ↔
      n.start < p.stop ∧ p.start < n.start + n.slotCount * s.slotSeconds := by
    rw [overlapsSpan_iff, show (s.openingPlacements (s.freshNight r.zone n)).start = n.start from congrArg (·.start) hframe,
      show (s.openingPlacements (s.freshNight r.zone n)).slotCount = n.slotCount from congrArg (·.slotCount) hframe]
  have hquality : (s.openingPlacements (s.freshNight r.zone n)).quality = n.quality := congrArg (·.quality) hframe
  have hopen : (s.openingPlacements (s.freshNight r.zone n)).tracked = true := by
    rw [tracked_iff]
    exact .inl (congrArg (·.state) hframe)
  have hslots : (s.openedNight r.zone n).slots = (s.openingPlacements (s.freshNight r.zone n)).slots := congrArg (·.slots) hsettle
  refine ⟨s.openedNight r.zone n, ?_, fun q hq => ?_, rfl, fun a ha => ⟨skipNight_applying r ha, ?_⟩, fun h => skipNight_kept r h,
    ?_, ⟨fun ⟨e, p, he, hp, hlap⟩ hclean => ?_, fun h => ?_⟩, openedNight_length s r.zone n, fun hc k y hy => ?_⟩
  · rw [openNight_night s r r n hr, if_pos rfl]
  · rw [openNight_night s r q n hr, if_neg hq]
  · exact not_mem_unreached List.mem_cons_self
  · have hrest := congrArg (fun x : Night => { x with quality := n.quality, slots := n.slots }) hsettle
    exact hrest.trans (congrArg (fun x : Night => { x with quality := n.quality, slots := n.slots }) hframe)
  · rw [openedNight_eq, settleCheck_disturbed he hp ((hover p).2 hlap), receive_clean hopen (hquality.trans hclean)]
  · rw [openedNight_eq, ← hquality]
    refine congrArg Night.quality ?_
    obtain hnot | hunclean := h
    · exact settleCheck_apart fun ⟨e, p, he, hp, hlap⟩ => hnot ⟨e, p, he, hp, (hover p).1 hlap⟩
    · exact settleCheck_unclean (hquality ▸ hunclean)
  · rw [hslots] at hy
    intro a b
    have hb : b = a + s.slotSeconds := by
      simp only [a, b, State.slotSeconds, Nat.succ_mul, Nat.add_assoc]
    rw [hb]
    exact openingPlacements_slot hc r.zone n hy

/-! ### Window starts (R27, R29, R33, R75, R77) -/

theorem freeRegular_none {v : Zone} (h0 : v.night0.isSome = true) (h1 : v.night1.isSome = true) : v.freeRegular = none := by
  obtain ⟨n, hn⟩ := Option.isSome_iff_exists.1 h0
  obtain ⟨k, hk⟩ := Option.isSome_iff_exists.1 h1
  unfold Zone.freeRegular
  rw [hn, hk]
  rfl

theorem freeRegular_some {v : Zone} (h : v.night0 = none ∨ v.night1 = none) :
    v.freeRegular = some (if v.night0 = none then 0 else 1) := by
  unfold Zone.freeRegular
  by_cases h0 : v.night0 = none
  · rw [if_pos (by rw [h0]; rfl), if_pos h0]
  · have h1 : v.night1 = none := h.resolve_left h0
    rw [if_neg (by simpa using h0), if_pos (by rw [h1]; rfl), if_neg h0]

theorem poolRefuses_iff (s : State) (slots : Nat) :
    s.poolRefuses slots = true ↔ 8192 - s.settings.reserve < s.regularHeld + slots ∨ s.freeSlots < slots := by
  unfold State.poolRefuses
  rw [Bool.or_eq_true, decide_eq_true_iff, decide_eq_true_iff]

/-- A regular start of a zone with a window, as the case split it is. -/
theorem regularStart_eq {s : State} {z : Nat} {e : ZoneEntry} {win : Window} (he : s.entry z = some e) (hw : e.window = some win)
    (w t1 : Nat) :
    s.regularStart z w t1 =
      if 4294967295 < s.deadlineOf w win.slots e.delay then s
      else if s.deadlineOf w win.slots e.delay ≤ t1 then s.recordSkip z .clockJump (w / 86400)
      else
        match (s.zone z).freeRegular with
        | none => s.recordSkip z .backlog (w / 86400)
        | some d =>
          if s.poolRefuses win.slots then s.recordSkip z .pool (w / 86400)
          else s.openNight { zone := z, desc := d } (Night.planned w win.slots e.runLength (s.deadlineOf w win.slots e.delay)) := by
  unfold State.regularStart
  rw [he]
  simp only [hw]
  rfl

theorem surveyStart_eq {s : State} {z : Nat} {n : Night} (hn : s.night { zone := z, desc := 2 } = some n) (t1 : Nat) :
    s.surveyStart z t1 =
      if n.state ≠ .armed then s
      else if n.deadline ≤ t1 then (s.releaseNight { zone := z, desc := 2 }).recordSkip z .clockJump (n.start / 86400)
      else if s.freeSlots < n.slotCount then (s.releaseNight { zone := z, desc := 2 }).recordSkip z .pool (n.start / 86400)
      else s.openNight { zone := z, desc := 2 } n := by
  unfold State.surveyStart
  simp only [hn]
  rfl

/-- Settles O23: the branches of the two starts; what an opening leaves is `openNight_opens`. -/
theorem windowStartOpensOrSkips : Obligations.WindowStartOpensOrSkips := by
  unfold Obligations.WindowStartOpensOrSkips
  refine ⟨fun s z w t1 e win he hw => ?_, fun s z t1 n => ?_⟩
  · intro deadline
    rw [regularStart_eq he hw]
    have hdeadline : s.deadlineOf w win.slots e.delay = deadline := rfl
    rw [hdeadline]
    refine ⟨fun hlate => if_pos hlate, fun hin => ?_⟩
    rw [if_neg (Nat.not_lt.2 hin)]
    refine ⟨fun hpast => if_pos hpast, fun hfuture => ?_⟩
    rw [if_neg (Nat.not_le.2 hfuture)]
    refine ⟨fun h0 h1 => by rw [freeRegular_none h0 h1], fun hfree => ?_⟩
    rw [freeRegular_some hfree]
    refine ⟨fun hfull => if_pos ((poolRefuses_iff s _).2 hfull), fun hreg hslots => ?_⟩
    have hroom : ¬ s.poolRefuses win.slots = true := fun h =>
      ((poolRefuses_iff s _).1 h).elim (Nat.not_lt.2 hreg) (Nat.not_lt.2 hslots)
    simp only [if_neg hroom]
    exact openNight_opens s _ _ (by simp only; split <;> decide)
  · intro r hn
    rw [surveyStart_eq hn]
    refine ⟨fun hstate => if_pos hstate, fun hstate => ?_⟩
    rw [if_neg (not_not_intro hstate)]
    refine ⟨fun hpast => if_pos hpast, fun hfuture => ?_⟩
    rw [if_neg (Nat.not_le.2 hfuture)]
    refine ⟨fun hfull => if_pos hfull, fun hroom => ?_⟩
    rw [if_neg (Nat.not_lt.2 hroom)]
    exact openNight_opens s r n (show 2 < 3 by decide)

end Sys2Proof.Machine

end

/-! Nights that drain, freeze and are released, and what follows an act on nights or readings (R28, R41, R51, R80 to R83, R142). -/

section

namespace Sys2Proof.Machine

/-! ### What replaces the nights alone -/

theorem setNight_withoutNights (v : Zone) (d : Nat) (n : Option Night) : (v.setNight d n).withoutNights = v.withoutNights := by
  match d with
  | 0 => rfl
  | 1 => rfl
  | 2 => rfl
  | _ + 3 => rfl

theorem zone_setNight_withoutNights (s : State) (r : NightRef) (n : Option Night) (z : Nat) :
    ((s.setNight r n).zone z).withoutNights = (s.zone z).withoutNights := by
  unfold State.setNight
  rw [zone_setZone]
  split
  · rename_i h
    rw [setNight_withoutNights, h]
  · rfl

/-- What the drains keep: everything but the nights, the assessment queue and the world's schedule. -/
structure OnlyNights (s t : State) : Prop where
  rest : { s with zones := t.zones, assess := t.assess, world := t.world, choices := t.choices } = t
  zone : ∀ z, (t.zone z).withoutNights = (s.zone z).withoutNights

namespace OnlyNights

theorem refl (s : State) : OnlyNights s s := ⟨rfl, fun _ => rfl⟩

theorem trans {s t u : State} (h : OnlyNights s t) (k : OnlyNights t u) : OnlyNights s u where
  rest := by
    have hrest := k.rest
    rw [← h.rest] at hrest
    exact hrest
  zone z := (k.zone z).trans (h.zone z)

end OnlyNights

theorem freeze_onlyNights (s : State) (r : NightRef) : OnlyNights s (s.freeze r) := by
  cases hn : s.night r with
  | none =>
    rw [State.freeze, hn]
    exact OnlyNights.refl s
  | some n =>
    rw [freeze_eq hn]
    exact ⟨rfl, zone_setNight_withoutNights s r _⟩

theorem choose_onlyNights (n : Nat) (s : State) : OnlyNights s (choose n s).2 := by
  obtain ⟨w, c, h⟩ := choose_eq n s
  rw [h]
  exact ⟨rfl, fun _ => rfl⟩

theorem settleDrainsLoop_onlyNights (k : Nat) (s : State) : OnlyNights s (settleDrainsLoop k s) := by
  induction k generalizing s with
  | zero => exact OnlyNights.refl s
  | succ k ih =>
    unfold settleDrainsLoop
    split
    · exact OnlyNights.refl s
    · exact ((choose_onlyNights _ s).trans (freeze_onlyNights _ _)).trans (ih _)

/-! ### The end of an application (R40, R51) -/

theorem endApplication_rest (s : State) : { s with chain := s.endApplication.chain } = s.endApplication := by
  unfold State.endApplication
  split
  · split <;> rfl
  · rfl

theorem endApplication_ended {s : State} {a : Application} (ha : s.chain = .applying a) (h : s.unreached a = []) :
    s.endApplication.chain = .idle := by
  unfold State.endApplication
  rw [ha]
  exact congrArg State.chain (if_pos (List.isEmpty_iff.2 h))

theorem endApplication_kept {s : State} (h : ∀ a, s.chain = .applying a → s.unreached a ≠ []) : s.endApplication = s := by
  unfold State.endApplication
  split
  · rename_i a ha
    exact if_neg fun hempty => h a ha (List.isEmpty_iff.1 hempty)
  · rfl

/-- What follows an act keeps everything but the nights, the assessment queue, the world's schedule and the application
it ends. -/
theorem quiesce_onlyNights (s : State) : OnlyNights { s with chain := s.endApplication.chain } s.quiesce := by
  rw [endApplication_rest]
  exact settleDrainsLoop_onlyNights _ _

theorem quiesce_chain (s : State) : s.quiesce.chain = s.endApplication.chain :=
  (congrArg State.chain (quiesce_onlyNights s).rest).symm

theorem quiesce_outstanding (s : State) : s.quiesce.outstanding = s.endApplication.outstanding := by
  have hrest := (quiesce_onlyNights s).rest
  rw [endApplication_rest] at hrest
  exact (congrArg State.outstanding hrest).symm

/-! ### The wait of a draining night (R41, R81) -/

theorem waitOver_iff {s : State} {n : Night} :
    s.waitOver n = true ↔ n.state = .draining ∧ ∀ m, n.mark = some m → ∀ w ∈ s.outstanding, m < w.issue := by
  unfold State.waitOver
  rw [Bool.and_eq_true, decide_eq_true_iff, Option.all_eq_true]
  simp only [List.all_eq_true, decide_eq_true_iff]

theorem lastOutstanding_eq_none {s : State} (h : s.outstanding = []) : s.lastOutstanding = none := by
  unfold State.lastOutstanding
  rw [h]
  rfl

theorem lastOutstanding_eq_some {s : State} (h : s.outstanding ≠ []) :
    ∃ m, s.lastOutstanding = some m ∧ (∃ w ∈ s.outstanding, w.issue = m) ∧ ∀ w ∈ s.outstanding, w.issue ≤ m := by
  cases hlast : s.lastOutstanding with
  | none => exact absurd (List.map_eq_nil_iff.1 (List.max?_eq_none_iff.1 hlast)) h
  | some m =>
    obtain ⟨hmem, hmax⟩ := List.max?_eq_some_iff.1 hlast
    exact ⟨m, rfl, List.mem_map.1 hmem, fun w hw => hmax _ (List.mem_map_of_mem hw)⟩

theorem enterDraining_none {s : State} {r : NightRef} {n : Night} (hn : s.night r = some n) (h : s.outstanding = []) :
    s.enterDraining r = s.freeze r := by
  unfold State.enterDraining
  rw [hn, lastOutstanding_eq_none h]

theorem enterDraining_some {s : State} {r : NightRef} {n : Night} {m : Nat} (hn : s.night r = some n)
    (h : s.lastOutstanding = some m) : s.enterDraining r = s.setNight r (some { n with state := .draining, mark := some m }) := by
  unfold State.enterDraining
  rw [hn, h]

/-! ### A window end and a deadline (R28, R80) -/

theorem windowEnds_eq {s : State} {r : NightRef} {n : Night} (hn : s.night r = some n) :
    s.windowEnds r =
      if n.state ≠ .opened then s
      else if n.deadline = n.windowEnd s.slotSeconds ∨ n.complete s.slotSeconds then s.enterDraining r
      else s.setNight r (some { n with state := .closing }) := by
  unfold State.windowEnds
  rw [hn]

theorem deadlinePasses_eq {s : State} {r : NightRef} {n : Night} (hn : s.night r = some n) :
    s.deadlinePasses r = if n.state = .closing then s.enterDraining r else s := by
  unfold State.deadlinePasses
  rw [hn]

/-! ### A released night (R51, R83, R89, R142) -/

theorem forget_kept {c : ChainUnit} (r : NightRef) (h : ∀ a, c ≠ .applying a) : c.forget r = c := by
  cases c with
  | idle => rfl
  | inHand w => rfl
  | applying a => exact absurd rfl (h a)

theorem release_same (r : NightRef) (left : Nat) (held : Bool) :
    (StreamBody.profile r left held).release r = .profile r left false := by
  simp [StreamBody.release]

/-- A stream that is no PROFILE of the released night keeps what it follows. -/
theorem release_other {b : StreamBody} {r : NightRef} (h : ∀ left held, b ≠ .profile r left held) : b.release r = b := by
  cases b with
  | profile night left held =>
    have hne : night ≠ r := fun heq => h left held (by rw [heq])
    simp [StreamBody.release, hne]
  | _ => rfl

theorem releaseNight_stream {s : State} {st : Stream} (h : s.stream = some st) (r : NightRef) :
    (s.releaseNight r).stream = some { st with body := st.body.release r } := by
  unfold State.releaseNight
  rw [h]
  rfl

theorem releaseNight_withoutNights (s : State) (r : NightRef) (z : Nat) :
    ((s.releaseNight r).zone z).withoutNights = (s.zone z).withoutNights := zone_setNight_withoutNights s r none z

/-- Settles O22. -/
theorem nightsDrainAndFreeze : Obligations.NightsDrainAndFreeze := by
  unfold Obligations.NightsDrainAndFreeze
  refine ⟨fun s z d n hd => ?_, fun s => ⟨fun hc z d n hn hdrain => ?_, fun hc => ?_, fun a ha hnone => ?_, fun h => ?_,
    (quiesce_onlyNights s).zone, ?_⟩⟩
  · intro r hn
    refine ⟨fun hout => (enterDraining_none hn hout).trans (freeze_eq hn), fun hout => ?_,
      ⟨?_, fun q hq => ?_, releaseNight_withoutNights s r, fun a ha => ?_, fun h => forget_kept r h, fun st hst => ⟨?_, fun h => ?_⟩,
        fun hst => ?_, rfl⟩,
      fun hstate => ?_, fun hstate => ⟨fun h => ?_, fun hne hnot => ?_⟩, fun hstate => ?_, fun hstate => ?_⟩
    · obtain ⟨m, hlast, hmem, hmax⟩ := lastOutstanding_eq_some hout
      exact ⟨m, hmem, hmax, enterDraining_some hn hlast⟩
    · rw [releaseNight_night s r r hd, if_pos rfl]
    · rw [releaseNight_night s r q hd, if_neg hq]
    · exact (congrArg (ChainUnit.forget r) ha :)
    · intro left held hb
      have hgone : (s.releaseNight r).stream = some { st with body := .profile r left false } := by
        rw [releaseNight_stream hst, hb, release_same]
      refine ⟨hgone, fun hphase u x hu => ?_⟩
      have hstream : u.stream = some { st with body := .profile r left false } := by
        obtain rfl | rfl := hu <;> exact hgone
      exact startStream_gone hstream hphase rfl (.inl rfl)
    · rw [releaseNight_stream hst, release_other h]
    · exact (congrArg (Option.map _) hst :)
    · exact (windowEnds_eq hn).trans (if_pos hstate)
    · exact (windowEnds_eq hn).trans ((if_neg (not_not_intro hstate)).trans (if_pos h))
    · refine (windowEnds_eq hn).trans ((if_neg (not_not_intro hstate)).trans (if_neg ?_))
      rintro (heq | hcomplete)
      · exact hne heq
      · exact Bool.false_ne_true (hnot.symm.trans hcomplete)
    · exact (deadlinePasses_eq hn).trans (if_pos hstate)
    · exact (deadlinePasses_eq hn).trans (if_neg hstate)
  · obtain ⟨rs, -, hmem, -, hnight, -⟩ := quiesce_spec s hc.1
    rw [hnight] at hn
    split at hn
    · obtain ⟨k, -, rfl⟩ := Option.map_eq_some_iff.1 hn
      cases hdrain
    · rename_i hnot
      have hwait : ¬ s.endApplication.waitOver n = true := fun h => hnot ((hmem _).2 ⟨n, hn, h⟩)
      rw [waitOver_iff, not_and] at hwait
      have hleft := hwait hdrain
      push Not at hleft
      rw [quiesce_outstanding]
      exact hleft
  · obtain ⟨rs, hnodup, hmem, hassess, hnight, -⟩ := quiesce_spec s hc.1
    intro waitOver
    have hover (n : Night) : waitOver n ↔ s.endApplication.waitOver n = true := by
      rw [waitOver_iff, ← quiesce_outstanding]
    refine ⟨rs, hnodup, hassess, fun r => ?_, fun r => ⟨fun n hn hw => ?_, fun h => ?_⟩⟩
    · simp only [hmem, hover]
    · rw [hnight, if_pos ((hmem r).2 ⟨n, hn, (hover n).1 hw⟩), hn]
      rfl
    · rw [hnight, if_neg]
      rintro hr
      obtain ⟨n, hn, hw⟩ := (hmem r).1 hr
      exact h n hn ((hover n).2 hw)
  · exact (quiesce_chain s).trans (endApplication_ended ha hnone)
  · exact (quiesce_chain s).trans (congrArg State.chain (endApplication_kept h))
  · have hrest := (quiesce_onlyNights s).rest
    rw [← hrest]
    exact ⟨rfl, rfl, rfl, rfl, rfl, rfl, rfl, rfl, rfl⟩

end Sys2Proof.Machine

end

/-! Characters and frames on the line: what the character receiver and the frame receiver take, and what TXD carries
(R145 to R150, R160). -/

section

namespace Sys2Proof.Machine

/-! ### Numbers as bytes (R159) -/

theorem byte_toNat (v : Nat) : (byte v).toNat = v % 256 := BitVec.toNat_ofNat v 8

theorem unle_le (k v : Nat) : unle (le k v) = v % 256 ^ k := by
  induction k generalizing v with
  | zero => rw [pow_zero, Nat.mod_one]; rfl
  | succ k ih => rw [le, unle, byte_toNat, ih, pow_succ', Nat.mod_mul]

theorem crcBytes_inj {c d : BitVec 16} : crcBytes c = crcBytes d ↔ c = d := by
  refine ⟨fun h => BitVec.eq_of_toNat_eq ?_, congrArg crcBytes⟩
  have hnum : unle (le 2 c.toNat) = unle (le 2 d.toNat) := congrArg unle h
  rwa [unle_le, unle_le, Nat.mod_eq_of_lt (show c.toNat < 256 ^ 2 from c.isLt),
    Nat.mod_eq_of_lt (show d.toNat < 256 ^ 2 from d.isLt)] at hnum

/-! ### The frame receiver (R148) -/

/-- The part with its frame receiver in a frame, `got` taken so far. -/
def State.inFrame (s : State) (got : List Byte) : State := { s with link := { s.link with rx := .inFrame got } }

theorem inFrame_of_rx {s : State} {got : List Byte} (h : s.link.rx = .inFrame got) : s.inFrame got = s := by
  rw [State.inFrame, ← h]

theorem hunting_of_rx {s : State} (h : s.link.rx = .hunting) : { s with link := { s.link with rx := .hunting } } = s := by
  rw [← h]

theorem receiveByte_sync {s : State} (h : s.link.rx = .hunting) : s.receiveByte Config.syncByte = s.inFrame [] := by
  unfold State.receiveByte
  rw [h]
  exact if_pos rfl

/-- A byte taken in a frame, as the case split it is. -/
theorem receiveByte_inFrame (s : State) (got : List Byte) (b : Byte) :
    (s.inFrame got).receiveByte b =
      if 250 < ((got ++ [b]).getD 0 0).toNat then (s.inFrame (got ++ [b])).abandon .tooLong
      else if (got ++ [b]).length = ((got ++ [b]).getD 0 0).toNat + 5 then s.judgeFrame (got ++ [b])
      else s.inFrame (got ++ [b]) := rfl

theorem receiveByte_data {got : List Byte} {b : Byte} (hlen : ((got ++ [b]).getD 0 0).toNat ≤ 250)
    (hmore : got.length + 1 ≠ ((got ++ [b]).getD 0 0).toNat + 5) (s : State) :
    (s.inFrame got).receiveByte b = s.inFrame (got ++ [b]) :=
  (receiveByte_inFrame s got b).trans ((if_neg (Nat.not_lt.2 hlen)).trans (if_neg (by rwa [List.length_append])))

theorem receiveBytes_append (s : State) (a b : List Byte) : s.receiveBytes (a ++ b) = (s.receiveBytes a).receiveBytes b :=
  List.foldl_append

/-- The bytes of a frame whose end has not come are taken as they are. -/
theorem receiveBytes_inFrame {len : Byte} (hlen : len.toNat ≤ 250) {rest : List Byte} (hmore : rest.length + 1 < len.toNat + 5)
    (s : State) : (s.inFrame []).receiveBytes (len :: rest) = s.inFrame (len :: rest) := by
  induction rest using List.reverseRecOn with
  | nil => exact receiveByte_data (got := []) hlen (Nat.ne_of_lt hmore) s
  | append_singleton rest b ih =>
    rw [List.length_append, List.length_singleton] at hmore
    have htaken := ih (Nat.lt_of_succ_lt hmore)
    rw [← List.cons_append, receiveBytes_append, htaken]
    exact receiveByte_data (got := len :: rest) hlen (Nat.ne_of_lt hmore) s

/-- The last byte of a frame brings its judgement. -/
theorem receiveBytes_whole {len : Byte} (hlen : len.toNat ≤ 250) {rest : List Byte} {b : Byte} (hend : rest.length + 2 = len.toNat + 5)
    (s : State) : (s.inFrame []).receiveBytes (len :: rest ++ [b]) = s.judgeFrame (len :: rest ++ [b]) := by
  rw [receiveBytes_append, receiveBytes_inFrame hlen (Nat.lt_of_succ_le hend.le)]
  exact (receiveByte_inFrame s _ b).trans ((if_neg (Nat.not_lt.2 hlen)).trans (if_pos (by simpa using hend)))

/-- A whole frame judged: its CRC is that of its bytes, or it becomes a REJECT. -/
theorem judgeFrame_eq (s : State) (kind tag : Byte) (body : List Byte) (crc : BitVec 16) :
    s.judgeFrame (byte body.length :: kind :: tag :: body ++ crcBytes crc) =
      if crc = frameCrc kind tag body then
        (State.deliver { s with link := { s.link with rx := .hunting } }
          { kind := kind, tag := tag, request := parseRequest kind body }).afterwards
      else (State.addReject { s with link := { s.link with rx := .hunting } } .check tag).afterwards := by
  have hcount : (byte body.length :: kind :: tag :: body ++ crcBytes crc).length - 2 =
      (byte body.length :: kind :: tag :: body).length := by
    rw [List.length_append]
    exact Nat.add_sub_cancel _ 2
  have hbody : ((byte body.length :: kind :: tag :: body ++ crcBytes crc).drop 3).take
      ((byte body.length :: kind :: tag :: body ++ crcBytes crc).length - 5) = body := by
    have hlen : (byte body.length :: kind :: tag :: body ++ crcBytes crc).length - 5 = body.length := by
      rw [List.length_append]
      exact Nat.add_sub_cancel body.length 5
    rw [hlen]
    exact List.take_left
  have hcrc : (crcBytes (crc16 (byte body.length :: kind :: tag :: body)) = crcBytes crc) ↔ crc = frameCrc kind tag body :=
    crcBytes_inj.trans eq_comm
  unfold State.judgeFrame
  simp only [hbody, hcount, List.take_left, List.drop_left, hcrc]
  rfl

theorem live_congr {s : State} {f g : State → State} (h : f s = g s) : s.live f = s.live g := by
  unfold State.live
  rw [h]

/-- A whole frame received from a hunting receiver is judged. -/
theorem exec_frame {s : State} {body : List Byte} (hhunt : s.link.rx = .hunting) (hbody : body.length ≤ 250) (kind tag : Byte)
    (crc : BitVec 16) :
    exec (.frame kind tag body crc) s =
      .next (s.live fun s => (s.lineHigh.judgeFrame (byte body.length :: kind :: tag :: body ++ crcBytes crc)).afterwards) := by
  have hlen : (byte body.length).toNat = body.length := by
    rw [byte_toNat]
    exact Nat.mod_eq_of_lt (Nat.lt_of_le_of_lt hbody (by decide))
  have htake : s.receiveFrame (byte body.length :: kind :: tag :: body ++ crcBytes crc) =
      s.lineHigh.judgeFrame (byte body.length :: kind :: tag :: body ++ crcBytes crc) := by
    have hsync : s.receiveFrame (byte body.length :: kind :: tag :: body ++ crcBytes crc) =
        (s.lineHigh.receiveByte Config.syncByte).receiveBytes (byte body.length :: kind :: tag :: body ++ crcBytes crc) := by
      unfold State.receiveFrame
      rw [hhunt]
      rfl
    have hbytes : byte body.length :: kind :: tag :: body ++ crcBytes crc =
        byte body.length :: (kind :: tag :: body ++ [byte crc.toNat]) ++ [byte (crc.toNat / 256)] := by
      simp [crcBytes, le]
    rw [hsync, receiveByte_sync (s := s.lineHigh) hhunt, hbytes]
    refine receiveBytes_whole (hlen.le.trans hbody) ?_ _
    rw [hlen]
    simp
  exact congrArg Host.Outcome.next (live_congr (congrArg State.afterwards htake))

/-- A good frame from a hunting receiver is handed on as the request it carries. -/
theorem exec_frame_good {s : State} {body : List Byte} (hhunt : s.link.rx = .hunting) (hbody : body.length ≤ 250) (kind tag : Byte) :
    exec (.frame kind tag body (frameCrc kind tag body)) s = .next (s.request kind tag (parseRequest kind body)) := by
  rw [exec_frame hhunt hbody]
  refine congrArg Host.Outcome.next (congrArg s.live (funext fun u => ?_))
  rw [judgeFrame_eq, if_pos rfl, afterwards_afterwards]
  rfl

/-! ### The character receiver (R146) -/

/-- The part with its character receiver as given. -/
def State.onLine (s : State) (l : LineReceiver) : State := { s with link := { s.link with line := l } }

theorem onLine_of_line {s : State} {l : LineReceiver} (h : s.link.line = l) : s.onLine l = s := by
  rw [State.onLine, ← h]

/-- The levels of a character between its start bit and its stop bit. -/
def Parity.inner (p : Parity) (c : Character) : List Bool :=
  ([0, 1, 2, 3, 4, 5, 6, 7].map fun i => c.data.getLsbD i) ++
    (match p with
      | .none => []
      | .even => [c.parityBit]
      | .odd => [c.parityBit])

theorem levels_eq (p : Parity) (c : Character) : p.levels c = false :: Parity.inner p c ++ [c.stopBit] := by
  cases p <;> rfl

theorem inner_length (p : Parity) (c : Character) : (Parity.inner p c).length + 2 = p.charBits := by
  cases p <;> rfl

theorem ofBits_byte : ∀ b : Byte, byte (ofBits ([0, 1, 2, 3, 4, 5, 6, 7].map fun i => b.getLsbD i)) = b := by
  decide +kernel

/-- The levels of a character spell it, but for a parity bit that means nothing. -/
theorem character_inner (p : Parity) (c : Character) :
    p.character (Parity.inner p c ++ [c.stopBit]) = { c with parityBit := p != .none && c.parityBit } := by
  have hdata : (Parity.inner p c ++ [c.stopBit]).take 8 = [0, 1, 2, 3, 4, 5, 6, 7].map fun i => c.data.getLsbD i := by
    cases p <;> rfl
  unfold Parity.character
  rw [hdata, ofBits_byte]
  cases p <;> rfl

theorem accepts_character (p : Parity) (c : Character) : p.accepts (p.character (Parity.inner p c ++ [c.stopBit])) = p.accepts c := by
  rw [character_inner]
  cases p <;> rfl

theorem receiveLevel_bit {s : State} {bits : List Bool} (h : bits.length + 2 ≠ s.link.parity.charBits) (level : Bool) :
    (s.onLine (.inCharacter bits)).receiveLevel level = s.onLine (.inCharacter (bits ++ [level])) := by
  have htake : LineReceiver.take s.link.parity level (.inCharacter bits) = (.inCharacter (bits ++ [level]), none) := if_neg h
  unfold State.receiveLevel State.onLine
  simp only [htake]

theorem receiveLevel_stop {s : State} {bits : List Bool} (h : bits.length + 2 = s.link.parity.charBits) (level : Bool) :
    (s.onLine (.inCharacter bits)).receiveLevel level =
      (s.onLine (if level then .idle else .awaitHigh)).receiveCharacter (s.link.parity.character (bits ++ [level])) := by
  have htake : LineReceiver.take s.link.parity level (.inCharacter bits) =
      (if level then .idle else .awaitHigh, some (s.link.parity.character (bits ++ [level]))) := if_pos h
  unfold State.receiveLevel State.onLine
  simp only [htake]

theorem receiveLevels_append (s : State) (a b : List Bool) : s.receiveLevels (a ++ b) = (s.receiveLevels a).receiveLevels b :=
  List.foldl_append

theorem receiveLevels_bits {s : State} {bits : List Bool} (h : bits.length + 2 ≤ s.link.parity.charBits) :
    (s.onLine (.inCharacter [])).receiveLevels bits = s.onLine (.inCharacter bits) := by
  induction bits using List.reverseRecOn with
  | nil => rfl
  | append_singleton bits level ih =>
    rw [List.length_append, List.length_singleton] at h
    rw [receiveLevels_append, ih (by omega)]
    exact receiveLevel_bit (by omega) level

/-- The levels of a character on an idle line bring that character. -/
theorem receiveLevels_character {s : State} (hidle : s.link.line = .idle) (c : Character) :
    s.receiveLevels (s.link.parity.levels c) =
      (s.onLine (if c.stopBit then .idle else .awaitHigh)).receiveCharacter
        (s.link.parity.character (Parity.inner s.link.parity c ++ [c.stopBit])) := by
  have hstart : s.receiveLevel false = s.onLine (.inCharacter []) := by
    unfold State.receiveLevel
    rw [hidle]
    rfl
  have hinner := inner_length s.link.parity c
  rw [levels_eq, receiveLevels_append, ← receiveLevel_stop hinner, ← receiveLevels_bits hinner.le, ← hstart]
  rfl

/-- A right character delivers its byte. -/
theorem receiveLevels_accepted {s : State} (hidle : s.link.line = .idle) {c : Character} (h : s.link.parity.accepts c = true) :
    s.receiveLevels (s.link.parity.levels c) = s.receiveByte c.data := by
  have hstop : c.stopBit = true := (Bool.and_eq_true_iff.1 h).1
  rw [receiveLevels_character hidle, hstop, if_pos rfl, onLine_of_line hidle, ← hstop]
  refine (if_pos ((accepts_character _ c).trans h)).trans ?_
  rw [character_inner]

/-- A damaged character abandons the frame in reception. -/
theorem receiveLevels_refused {s : State} (hidle : s.link.line = .idle) {c : Character} (h : s.link.parity.accepts c = false) :
    s.receiveLevels (s.link.parity.levels c) = (s.onLine (if c.stopBit then .idle else .awaitHigh)).abandon .charError := by
  rw [receiveLevels_character hidle]
  exact if_neg (by rw [Bool.not_eq_true]; exact (accepts_character _ c).trans h)

theorem abandon_hunting {s : State} (h : s.link.rx = .hunting) (cause : RejectCause) : s.abandon cause = s := by
  unfold State.abandon
  rw [h]

theorem abandon_inFrame {s : State} {got : List Byte} (h : s.link.rx = .inFrame got) (cause : RejectCause) :
    s.abandon cause = (State.addReject { s with link := { s.link with rx := .hunting } } cause (got.getD 2 0)).afterwards := by
  unfold State.abandon
  rw [h]
  rfl

/-- A LEN above 250 ends the frame it begins. -/
theorem exec_tooLong {s : State} (hlive : s.link.resetLow = false) (hhunt : s.link.rx = .hunting) {len : Byte} (h : 250 < len.toNat) :
    exec (.tooLong len) s = .next (State.addReject (s.onLine .idle) .tooLong 0).afterwards := by
  have htake : s.receiveFrame [len] = (s.lineHigh.receiveByte Config.syncByte).receiveByte len := by
    unfold State.receiveFrame
    rw [hhunt]
    rfl
  have hreject : s.receiveFrame [len] = (State.addReject (s.onLine .idle) .tooLong 0).afterwards := by
    rw [htake, receiveByte_sync (s := s.lineHigh) hhunt]
    refine (receiveByte_inFrame _ _ _).trans ((if_pos h).trans ((abandon_inFrame rfl _).trans ?_))
    refine congrArg (fun u : State => (u.addReject .tooLong 0).afterwards) ?_
    exact hunting_of_rx (s := s.onLine .idle) hhunt
  refine congrArg Host.Outcome.next ((live_high hlive _).trans ?_)
  rw [hreject, afterwards_afterwards]

/-- Settles O9. -/
theorem damagedFramesBecomeRejects : Obligations.DamagedFramesBecomeRejects := by
  unfold Obligations.DamagedFramesBecomeRejects
  refine ⟨fun s hlive => ?_, fun s => ⟨fun hidle => ?_, fun hawait => ⟨?_, ?_⟩⟩, fun s cause tag => ⟨fun h => if_pos h, fun h => ?_⟩⟩
  · intro q
    have hexec (received : List Byte) (levels : List Bool) :
        exec (.charError received levels) s =
          .next (((if received = [] then s else q.receiveBytes received).receiveLevels levels).afterwards) :=
      congrArg Host.Outcome.next (live_high hlive _)
    refine ⟨fun kind tag body crc hhunt hbody hne => ?_, fun len hhunt h => exec_tooLong hlive hhunt h, fun received levels c => ?_,
      fun received => ?_⟩
    · rw [exec_frame hhunt hbody, live_high hlive, judgeFrame_eq, if_neg hne, afterwards_afterwards]
      exact congrArg (fun u : State => Host.Outcome.next (u.addReject .check tag).afterwards) (hunting_of_rx (s := q) hhunt)
    · intro u line v hidle
      have htaken := hexec received (levels ++ u.link.parity.levels c)
      rw [receiveLevels_append] at htaken
      refine ⟨fun haccept => ?_, fun hrefuse => ⟨fun hhunt => ?_, fun got hgot => ?_⟩⟩
      · exact htaken.trans (congrArg (fun x : State => Host.Outcome.next x.afterwards) (receiveLevels_accepted hidle haccept))
      · exact htaken.trans (congrArg (fun x : State => Host.Outcome.next x.afterwards)
          ((receiveLevels_refused hidle hrefuse).trans (abandon_hunting (s := v) hhunt _)))
      · refine htaken.trans (congrArg Host.Outcome.next ?_)
        refine (congrArg State.afterwards ((receiveLevels_refused hidle hrefuse).trans (abandon_inFrame (s := v) hgot _))).trans ?_
        exact afterwards_afterwards _
    · intro u
      refine ⟨fun hhunt => ?_, fun got hgot => ?_⟩
      · refine congrArg Host.Outcome.next ((live_high hlive _).trans ?_)
        exact congrArg State.afterwards (abandon_hunting (s := u) hhunt _)
      · refine congrArg Host.Outcome.next ((live_high hlive _).trans ?_)
        exact (congrArg State.afterwards (abandon_inFrame (s := u) hgot _)).trans (afterwards_afterwards _)
  · unfold State.receiveLevel
    rw [hidle]
    exact onLine_of_line hidle
  · unfold State.receiveLevel
    rw [hawait]
    exact onLine_of_line hawait
  · unfold State.receiveLevel
    rw [hawait]
    rfl
  · exact if_neg (Nat.not_lt.2 h)

end Sys2Proof.Machine

end

/-! What TXD carries: characters, frames and their CRC (R145, R147, R149, R160). -/

section

namespace Sys2Proof.Machine

/-! ### Characters (R147) -/

/-- Bit times of a character. -/
theorem charLine_length (p : Parity) (b : Byte) : (p.charLine b).length = if p = .none then 10 else 11 := by
  cases p <;> rfl

/-- The parity bit makes the number of ones even, or odd. -/
theorem oddOnes_count : ∀ b : Byte,
    ([b.getLsbD 0, b.getLsbD 1, b.getLsbD 2, b.getLsbD 3, b.getLsbD 4, b.getLsbD 5, b.getLsbD 6, b.getLsbD 7] ++
        [oddOnes b]).count true % 2 = 0 ∧
      ([b.getLsbD 0, b.getLsbD 1, b.getLsbD 2, b.getLsbD 3, b.getLsbD 4, b.getLsbD 5, b.getLsbD 6, b.getLsbD 7] ++
        [!oddOnes b]).count true % 2 = 1 := by
  decide +kernel

theorem charLine_start (p : Parity) (b : Byte) : (p.charLine b)[0]? = some false := by
  cases p <;> rfl

theorem charLine_stop (p : Parity) (b : Byte) : (p.charLine b)[(if p = .none then 10 else 11) - 1]? = some true := by
  cases p <;> rfl

/-! ### The CRC (R149) -/

theorem crcBit_eq (reg : BitVec 16) (bit : Bool) :
    crcBit reg bit = if reg.getLsbD 15 = bit then reg <<< 1 else (reg <<< 1) ^^^ 0x1021 := by
  unfold crcBit
  cases reg.getLsbD 15 <;> cases bit <;> rfl

theorem crc16_append (bytes : List Byte) (b : Byte) : crc16 (bytes ++ [b]) = crcByte (crc16 bytes) b := List.foldl_append

theorem crcByte_eq (reg : BitVec 16) (b : Byte) :
    crcByte reg b =
      [b.getLsbD 7, b.getLsbD 6, b.getLsbD 5, b.getLsbD 4, b.getLsbD 3, b.getLsbD 2, b.getLsbD 1, b.getLsbD 0].foldl
        (fun (reg : BitVec 16) bit => if reg.getLsbD 15 = bit then reg <<< 1 else (reg <<< 1) ^^^ 0x1021) reg :=
  congrArg (fun f : BitVec 16 → Bool → BitVec 16 =>
    [b.getLsbD 7, b.getLsbD 6, b.getLsbD 5, b.getLsbD 4, b.getLsbD 3, b.getLsbD 2, b.getLsbD 1, b.getLsbD 0].foldl f reg)
    (funext fun r => funext fun bit => crcBit_eq r bit)

/-- The CRC's check value. -/
theorem crc16_check : crc16 [0x31, 0x32, 0x33, 0x34, 0x35, 0x36, 0x37, 0x38, 0x39] = 0x29B1 := by
  decide +kernel

/-! ### Frames on the line (R147, R160) -/

theorem frameBytes_length (f : Frame) : f.bytes.length = f.body.length + 6 := by
  simp only [Frame.bytes, crcBytes, List.cons_append, List.length_cons, List.length_append, le_length]
  omega

/-- A place in a concatenation of pieces of one width. -/
theorem getElem?_flatMap_width {α β : Type} {g : α → List β} {width : Nat} (hg : ∀ x, (g x).length = width) {l : List α} {c : Nat}
    {x : α} (hc : l[c]? = some x) {j : Nat} (hj : j < width) : (l.flatMap g)[c * width + j]? = (g x)[j]? := by
  induction l generalizing c with
  | nil => cases hc
  | cons y rest ih =>
    rw [List.flatMap_cons]
    cases c with
    | zero =>
      obtain rfl : y = x := Option.some.inj hc
      rw [Nat.zero_mul, Nat.zero_add, List.getElem?_append_left (by rw [hg]; exact hj)]
    | succ c =>
      rw [List.getElem?_append_right (by rw [hg, Nat.succ_mul]; omega), hg, ← ih hc]
      refine congrArg (fun k => (rest.flatMap g)[k]?) ?_
      rw [Nat.succ_mul]
      omega

theorem flatMap_width_length {α β : Type} {g : α → List β} {width : Nat} (hg : ∀ x, (g x).length = width) (l : List α) :
    (l.flatMap g).length = l.length * width := by
  induction l with
  | nil => exact (Nat.zero_mul _).symm
  | cons x rest ih => rw [List.flatMap_cons, List.length_append, hg, ih, List.length_cons, Nat.succ_mul, Nat.add_comm]

theorem frameLine_length (p : Parity) (f : Frame) : (f.line p).length = (f.body.length + 6) * (if p = .none then 10 else 11) := by
  rw [Frame.line, flatMap_width_length (charLine_length p), frameBytes_length]

/-- The level of TXD in a bit time of a character of the frame being sent. -/
theorem txd_sending {s : State} {x : Sending} (hx : s.link.sending = some x) {c j : Nat} {b : Byte} {v : Bool}
    (hb : x.frame.bytes[c]? = some b) (hv : (s.link.parity.charLine b)[j]? = some v) :
    s.txd (c * (if s.link.parity = .none then 10 else 11) + j) = v := by
  have hj : j < if s.link.parity = .none then 10 else 11 := by
    rw [← charLine_length s.link.parity b]
    exact (List.getElem?_eq_some_iff.1 hv).1
  unfold State.txd
  rw [txdBits_sending hx, Frame.line, List.getD_eq_getElem?_getD, getElem?_flatMap_width (charLine_length s.link.parity) hb hj, hv]
  rfl

/-- The first level of a transmission is its start bit. -/
theorem txd_first {s : State} {x : Sending} (hx : s.link.sending = some x) : s.txd 0 = false := by
  have h := txd_sending (c := 0) hx rfl (charLine_start s.link.parity Config.syncByte)
  rwa [Nat.zero_mul] at h

/-- The last level of a transmission is the stop bit of its last character. -/
theorem txd_last {s : State} {x : Sending} (hx : s.link.sending = some x) :
    s.txd ((x.frame.body.length + 6) * (if s.link.parity = .none then 10 else 11) - 1) = true := by
  have hc : x.frame.body.length + 5 < x.frame.bytes.length := by rw [frameBytes_length]; omega
  have h := txd_sending hx (List.getElem?_eq_getElem hc) (charLine_stop s.link.parity _)
  have hwidth : 1 ≤ if s.link.parity = .none then 10 else 11 := by split <;> decide
  rwa [← Nat.add_sub_assoc hwidth, ← Nat.succ_mul] at h

/-! ### SYNC (R148) -/

theorem exec_sync {s : State} (hlive : s.link.resetLow = false) :
    exec .sync s = .next ((s.onLine .idle).receiveByte Config.syncByte).afterwards :=
  congrArg Host.Outcome.next (live_high hlive _)

/-- Settles O8. -/
theorem goodFramesAreReceived : Obligations.GoodFramesAreReceived := by
  unfold Obligations.GoodFramesAreReceived
  refine ⟨fun s hlive => ⟨fun hhunt => ?_, fun got hgot hlen hmore => ?_⟩, fun kind tag body s hhunt hbody => ?_, fun b => ?_,
    fun p f => ?_, ⟨rfl, fun bytes b => ?_, crc16_check⟩, fun s => ⟨?_, txd_idle, fun x hx => ?_, fun micros => ?_⟩⟩
  · rw [exec_sync hlive, receiveByte_sync (s := s.onLine .idle) hhunt]
    rfl
  · rw [exec_sync hlive, ← inFrame_of_rx (s := s.onLine .idle) hgot, receiveByte_data hlen hmore]
    rfl
  · exact exec_frame_good hhunt hbody kind tag
  · exact ⟨rfl, ⟨oddOnes b, rfl, (oddOnes_count b).1⟩, ⟨!oddOnes b, rfl, (oddOnes_count b).2⟩⟩
  · refine ⟨rfl, ?_, frameLine_length p f⟩
    rw [Frame.line, List.flatMap_def]
  · exact (crc16_append bytes b).trans (crcByte_eq _ b)
  · exact Option.isNone_iff_eq_none
  · intro width
    refine ⟨fun c j b v hb hv => txd_sending hx hb hv, txd_first hx, txd_last hx, fun k hk => txd_past ?_⟩
    rw [txdBits_sending hx, frameLine_length]
    exact hk
  · rfl

end Sys2Proof.Machine

end

/-! The bodies of requests written and read back (R159 to R163), and a request's frame acting as its row. -/

section

namespace Sys2Proof.Machine

/-! ### Fields written and read (R159) -/

@[simp] theorem leOpt_length (k : Nat) (x : Option Nat) : (leOpt k x).length = k + 1 := by
  cases x <;> exact congrArg (· + 1) (le_length k _)

theorem leBool_length (v : Bool) : (leBool v).length = 1 := rfl

theorem fits_iff {k n : Nat} : fits k n = true ↔ n < 256 ^ k := decide_eq_true_iff

/-- A field after what stands before it. -/
theorem num_append {a : List Byte} {off : Nat} (h : a.length ≤ off) (b : List Byte) (k : Nat) :
    num (a ++ b) off k = num b (off - a.length) k := by
  unfold num
  rw [List.drop_append, List.drop_eq_nil_of_le h, List.nil_append]

@[simp] theorem num_le {k n : Nat} (h : fits k n = true) (rest : List Byte) : num (le k n ++ rest) 0 k = n := by
  unfold num
  rw [List.drop_zero, List.take_left' (le_length k n), unle_le, Nat.mod_eq_of_lt (fits_iff.1 h)]

@[simp] theorem num_skip {j off : Nat} (h : j ≤ off) (n : Nat) (rest : List Byte) (k : Nat) :
    num (le j n ++ rest) off k = num rest (off - j) k := by
  rw [num_append (by rwa [le_length]), le_length]

@[simp] theorem num_skipOpt {j off : Nat} (h : j + 1 ≤ off) (x : Option Nat) (rest : List Byte) (k : Nat) :
    num (leOpt j x ++ rest) off k = num rest (off - (j + 1)) k := by
  rw [num_append (by rwa [leOpt_length]), leOpt_length]

/-- The presence byte of an optional field. -/
@[simp] theorem num_presence (k : Nat) (x : Option Nat) (rest : List Byte) : num (leOpt k x ++ rest) 0 1 = if x = none then 0 else 1 := by
  cases x <;> rfl

@[simp] theorem num_skipSigned {off : Nat} (h : 4 ≤ off) (v : Int) (rest : List Byte) (k : Nat) :
    num (leSigned v ++ rest) off k = num rest (off - 4) k := num_skip h _ rest k

@[simp] theorem numOpt_skip {j off : Nat} (h : j ≤ off) (n : Nat) (rest : List Byte) (k : Nat) :
    numOpt (le j n ++ rest) off k = numOpt rest (off - j) k := by
  unfold numOpt
  rw [num_skip h, num_skip (Nat.le_succ_of_le h), Nat.succ_sub h]

@[simp] theorem numOpt_skipOpt {j off : Nat} (h : j + 1 ≤ off) (x : Option Nat) (rest : List Byte) (k : Nat) :
    numOpt (leOpt j x ++ rest) off k = numOpt rest (off - (j + 1)) k := by
  unfold numOpt
  rw [num_skipOpt h, num_skipOpt (Nat.le_succ_of_le h), Nat.succ_sub h]

@[simp] theorem numOpt_leOpt {k : Nat} {x : Option Nat} (h : fitsOpt k x = true) (rest : List Byte) :
    numOpt (leOpt k x ++ rest) 0 k = x := by
  unfold numOpt
  rw [num_presence]
  cases x with
  | none => rfl
  | some n => exact congrArg some (num_le (k := k) (show fits k n = true from h) rest)

@[simp] theorem flagOk_skip {j off : Nat} (h : j ≤ off) (n : Nat) (rest : List Byte) :
    flagOk (le j n ++ rest) off = flagOk rest (off - j) := by
  unfold flagOk
  rw [num_skip h]

@[simp] theorem flagOk_skipOpt {j off : Nat} (h : j + 1 ≤ off) (x : Option Nat) (rest : List Byte) :
    flagOk (leOpt j x ++ rest) off = flagOk rest (off - (j + 1)) := by
  unfold flagOk
  rw [num_skipOpt h]

@[simp] theorem flagOk_leOpt (k : Nat) (x : Option Nat) (rest : List Byte) : flagOk (leOpt k x ++ rest) 0 = true := by
  cases x <;> rfl

@[simp] theorem flagOk_leBool (v : Bool) (rest : List Byte) : flagOk (leBool v ++ rest) 0 = true := by
  cases v <;> rfl

@[simp] theorem num_leBool (v : Bool) (rest : List Byte) : (num (leBool v ++ rest) 0 1 = 1 : Bool) = v := by
  cases v <;> rfl

/-- A signed field holds the number it was written from. -/
@[simp] theorem toSigned_leSigned {v : Int} (h1 : -2147483648 ≤ v) (h2 : v ≤ 2147483647) (rest : List Byte) :
    toSigned (num (leSigned v ++ rest) 0 4) = v := by
  have hfits : fits 4 (v % 4294967296).toNat = true := fits_iff.2 (by norm_num; omega)
  rw [leSigned, num_le hfits, toSigned]
  split <;> omega

/-! ### The last field of a body -/

@[simp] theorem num_le_last {k n : Nat} (h : fits k n = true) : num (le k n) 0 k = n := by
  simpa using num_le h []

@[simp] theorem numOpt_leOpt_last {k : Nat} {x : Option Nat} (h : fitsOpt k x = true) : numOpt (leOpt k x) 0 k = x := by
  simpa using numOpt_leOpt h []

@[simp] theorem flagOk_leOpt_last (k : Nat) (x : Option Nat) : flagOk (leOpt k x) 0 = true := by
  simpa using flagOk_leOpt k x []

@[simp] theorem flagOk_leBool_last (v : Bool) : flagOk (leBool v) 0 = true := by
  simpa using flagOk_leBool v []

@[simp] theorem num_leBool_last (v : Bool) : (num (leBool v) 0 1 = 1 : Bool) = v := by
  simpa using num_leBool v []

/-! ### A body of fixed length (R152, R163) -/

theorem parseFixed_read {b : List Byte} {length : Nat} {marks : List Nat} {r r' : Request} (hlen : b.length = length)
    (hmarks : ∀ o ∈ marks, flagOk b o = true) (hr : r = r') : parseFixed b length marks r = r' := by
  unfold parseFixed
  rw [if_pos hlen, if_pos (List.all_eq_true.2 hmarks), hr]

/-- A body of one field. -/
theorem parseFixed_field {k n : Nat} (h : fits k n = true) (f : Nat → Request) :
    parseFixed (le k n) k [] (f (num (le k n) 0 k)) = f n :=
  parseFixed_read (le_length k n) (List.forall_mem_nil _) (congrArg f (num_le_last h))

/-- The requests whose bodies have one length. -/
def hasFixedBody : Request → Bool
  | .zoneSetAllowance _ _ _ _ => false
  | .readings _ _ => false
  | _ => true

/-- A body of fixed length is read as the request it was written from. -/
theorem parse_fixed {r : Request} (hw : r.wellFormed = true) (hf : hasFixedBody r = true) : parseRequest r.kind r.body = r := by
  cases r with
  | identify => exact parseFixed_read rfl (List.forall_mem_nil _) rfl
  | systemSet f =>
    simp only [Request.wellFormed, Bool.and_eq_true, and_assoc] at hw
    obtain ⟨h1, h2, h3, h4⟩ := hw
    exact parseFixed_read (by simp [Request.body]) (by simp [Request.body]) (by simp [Request.body, h1, h2, h3, h4])
  | poolStatus => exact parseFixed_read rfl (List.forall_mem_nil _) rfl
  | flush => exact parseFixed_read rfl (List.forall_mem_nil _) rfl
  | ack entry flags =>
    simp only [Request.wellFormed, Bool.and_eq_true] at hw
    obtain ⟨h1, h2⟩ := hw
    exact parseFixed_read (by simp [Request.body, le_length]) (by simp [Request.body]) (by simp [Request.body, h1, h2])
  | clockSet time weekday =>
    simp only [Request.wellFormed, Bool.and_eq_true] at hw
    obtain ⟨h1, h2⟩ := hw
    exact parseFixed_read (by simp [Request.body]) (by simp [Request.body]) (by simp [Request.body, h1, h2])
  | surveyArm zone f replace =>
    simp only [Request.wellFormed, Bool.and_eq_true, and_assoc] at hw
    obtain ⟨h1, h2, h3, h4⟩ := hw
    exact parseFixed_read (by simp [Request.body, le_length, leBool_length]) (by simp [Request.body])
      (by simp [Request.body, h1, h2, h3, h4])
  | surveyCancel zone => exact parseFixed_field hw Request.surveyCancel
  | zoneDefine zone => exact parseFixed_field hw Request.zoneDefine
  | zoneStart zone => exact parseFixed_field hw Request.zoneStart
  | zoneStop zone => exact parseFixed_field hw Request.zoneStop
  | zoneUndefine zone => exact parseFixed_field hw Request.zoneUndefine
  | zoneSetWindow zone f =>
    simp only [Request.wellFormed, Bool.and_eq_true, and_assoc] at hw
    obtain ⟨h1, h2, h3, h4, h5⟩ := hw
    exact parseFixed_read (by simp [Request.body, le_length]) (by simp [Request.body])
      (by simp [Request.body, h1, h2, h3, h4, h5])
  | zoneSetAllowance zone properties perProperty users => cases hf
  | zoneSetTests zone f =>
    simp only [Request.wellFormed, Tests.wellFormed, Bool.and_eq_true, and_assoc] at hw
    obtain ⟨h1, h2, h3, h4, h5, h6, h7, h8⟩ := hw
    exact parseFixed_read (by simp [Request.body, le_length]) (by simp [Request.body])
      (by simp [Request.body, h1, h2, h3, h4, h5, h6, h7, h8])
  | disturb zone start stop =>
    simp only [Request.wellFormed, Bool.and_eq_true, and_assoc] at hw
    obtain ⟨h1, h2, h3⟩ := hw
    exact parseFixed_read (by simp [Request.body, le_length]) (by simp [Request.body]) (by simp [Request.body, h1, h2, h3])
  | meterDefine f =>
    simp only [Request.wellFormed, MeterSpec.wellFormed, Bool.and_eq_true, and_assoc] at hw
    obtain ⟨h1, h2, h3, h4, h5, h6, h7, h8, h9⟩ := hw
    exact parseFixed_read (by simp [Request.body, le_length]) (by simp [Request.body])
      (by simp [Request.body, h1, h2, h3, h4, h5, h6, h7, h8, h9])
  | meterRetire tag => exact parseFixed_field hw Request.meterRetire
  | meterCut tag time =>
    simp only [Request.wellFormed, Bool.and_eq_true] at hw
    obtain ⟨h1, h2⟩ := hw
    exact parseFixed_read (by simp [Request.body, le_length]) (by simp [Request.body]) (by simp [Request.body, h1, h2])
  | meterStatus tag => exact parseFixed_field hw Request.meterStatus
  | exceptionsTag tag =>
    have hform : fits 1 0 = true := rfl
    exact parseFixed_read (by simp [Request.body, le_length]) (List.forall_mem_nil _)
      (by simp [Request.body, hform, show fits _ _ = true from hw])
  | exceptionsSweep index =>
    have hform : fits 1 1 = true := rfl
    exact parseFixed_read (by simp [Request.body, le_length]) (List.forall_mem_nil _)
      (by simp [Request.body, hform, show fits _ _ = true from hw])
  | readings base records => cases hf
  | channelSet channel f =>
    simp only [Request.wellFormed, Bool.and_eq_true, and_assoc] at hw
    obtain ⟨h1, h2, h3, h4⟩ := hw
    exact parseFixed_read (by simp [Request.body, le_length]) (by simp [Request.body]) (by simp [Request.body, h1, h2, h3, h4])
  | dispose zone disposition absorb =>
    simp only [Request.wellFormed, Bool.and_eq_true] at hw
    obtain ⟨h1, h2⟩ := hw
    exact parseFixed_read (by simp [Request.body, le_length, leBool_length]) (by simp [Request.body])
      (by simp [Request.body, h1, h2])
  | rebaseline zone => exact parseFixed_field hw Request.rebaseline
  | baselineGet zone => exact parseFixed_field hw Request.baselineGet
  | baselinePut zone baseline count cusum =>
    simp only [Request.wellFormed, Bool.and_eq_true, decide_eq_true_iff, and_assoc] at hw
    obtain ⟨h1, h2, h3, h4, h5⟩ := hw
    exact parseFixed_read (by simp [Request.body, le_length, leSigned_length]) (List.forall_mem_nil _)
      (by simp [Request.body, h1, h2, h3, h4, h5])
  | resultGet zone selector =>
    simp only [Request.wellFormed, Bool.and_eq_true] at hw
    obtain ⟨h1, h2⟩ := hw
    exact parseFixed_read (by simp [Request.body, le_length]) (by simp [Request.body]) (by simp [Request.body, h1, h2])
  | zoneStatus zone => exact parseFixed_field hw Request.zoneStatus
  | rollcall first last mode =>
    simp only [Request.wellFormed, Bool.and_eq_true, and_assoc] at hw
    obtain ⟨h1, h2, h3⟩ := hw
    exact parseFixed_read (by simp [Request.body, le_length]) (by simp [Request.body]) (by simp [Request.body, h1, h2, h3])
  | rollcallNext => exact parseFixed_read rfl (List.forall_mem_nil _) rfl
  | rollcallStop => exact parseFixed_read rfl (List.forall_mem_nil _) rfl
  | profile zone descriptor =>
    simp only [Request.wellFormed, Bool.and_eq_true] at hw
    obtain ⟨h1, h2⟩ := hw
    exact parseFixed_read (by simp [Request.body, le_length]) (by simp [Request.body]) (by simp [Request.body, h1, h2])
  | unknown => cases hw
  | badLength => cases hw
  | badValue => cases hw

/-! ### Entries that stand one after another (R8, R162) -/

theorem drop_le (j n : Nat) (rest : List Byte) : (le j n ++ rest).drop j = rest := List.drop_left' (le_length j n)

theorem userBody_length (u : User) : u.body.length = 11 := by
  simp [User.body, le_length]

theorem parseUser_body {u : User} (h : u.wellFormed = true) (rest : List Byte) : parseUser (u.body ++ rest) = u := by
  simp only [User.wellFormed, Bool.and_eq_true, and_assoc] at h
  obtain ⟨htag, hallowance, hweekdays, huntil⟩ := h
  simp [parseUser, User.body, htag, hallowance, hweekdays, huntil]

theorem parseUsers_flatMap {us : List User} (h : ∀ u ∈ us, u.wellFormed = true) :
    parseUsers us.length (us.flatMap User.body) = us := by
  induction us with
  | nil => rfl
  | cons u rest ih =>
    obtain ⟨hu, hrest⟩ := List.forall_mem_cons.1 h
    rw [List.length_cons, List.flatMap_cons, parseUsers, parseUser_body hu, List.drop_left' (userBody_length u), ih hrest]

theorem usersOk_flatMap (us : List User) : usersOk us.length (us.flatMap User.body) = true := by
  induction us with
  | nil => rfl
  | cons u rest ih =>
    have hmarks : flagOk (u.body ++ rest.flatMap User.body) 6 = true ∧ flagOk (u.body ++ rest.flatMap User.body) 8 = true := by
      simp [User.body]
    rw [List.length_cons, List.flatMap_cons, usersOk, hmarks.1, hmarks.2, List.drop_left' (userBody_length u), ih]
    rfl

theorem readingBody_length (r : ReadingSpec) : r.body.length = 15 := by
  simp [ReadingSpec.body, le_length]

/-- Bit 23 of the offset field says whether a reverse register stands. -/
theorem parseReading_body {r : ReadingSpec} (h : r.wellFormed = true) (rest : List Byte) : parseReading (r.body ++ rest) = r := by
  obtain ⟨tag, offset, forward, reverse⟩ := r
  simp only [ReadingSpec.wellFormed, Bool.and_eq_true, decide_eq_true_iff, and_assoc] at h
  obtain ⟨htag, hoffset, hforward, hreverse⟩ := h
  cases reverse with
  | none =>
    have hfield : fits 3 offset = true := fits_iff.2 (by norm_num; omega)
    simp [parseReading, ReadingSpec.body, htag, hforward, hfield, hoffset, Nat.mod_eq_of_lt hoffset]
  | some v =>
    have hv : fits 4 v = true := hreverse
    have hfield : fits 3 (offset + 8388608) = true := fits_iff.2 (by norm_num; omega)
    simp [parseReading, ReadingSpec.body, htag, hforward, hfield, hv, Nat.mod_eq_of_lt hoffset]

theorem parseReadings_flatMap {rs : List ReadingSpec} (h : ∀ r ∈ rs, r.wellFormed = true) :
    parseReadings rs.length (rs.flatMap ReadingSpec.body) = rs := by
  induction rs with
  | nil => rfl
  | cons r rest ih =>
    obtain ⟨hr, hrest⟩ := List.forall_mem_cons.1 h
    rw [List.length_cons, List.flatMap_cons, parseReadings, parseReading_body hr, List.drop_left' (readingBody_length r), ih hrest]

/-! ### The two kinds with a count (R8, R162, R163) -/

theorem parse_allowance (b : List Byte) :
    parseRequest 0x0E b =
      if b.length < 6 then .badLength
      else if 8 < num b 5 1 then .badValue
      else if b.length ≠ 6 + 11 * num b 5 1 then .badLength
      else if usersOk (num b 5 1) (b.drop 6) then
        .zoneSetAllowance (num b 0 2) (num b 2 2) (num b 4 1) (parseUsers (num b 5 1) (b.drop 6))
      else .badValue := rfl

theorem parse_readings (b : List Byte) :
    parseRequest 0x16 b =
      if b.length = 0 then .badLength
      else if num b 0 1 = 0 ∨ 16 < num b 0 1 then .badValue
      else if b.length ≠ 5 + 15 * num b 0 1 then .badLength
      else .readings (num b 1 4) (parseReadings (num b 0 1) (b.drop 5)) := rfl

theorem parse_allowance_body {zone properties perProperty : Nat} {users : List User}
    (hw : (Request.zoneSetAllowance zone properties perProperty users).wellFormed = true) (hcount : users.length ≤ 8) :
    parseRequest 0x0E (Request.body (.zoneSetAllowance zone properties perProperty users)) =
      .zoneSetAllowance zone properties perProperty users := by
  simp only [Request.wellFormed, Bool.and_eq_true, and_assoc] at hw
  obtain ⟨hzone, hproperties, hper, -, husers⟩ := hw
  have hfits : fits 1 users.length = true := fits_iff.2 (by omega)
  have hbody : Request.body (.zoneSetAllowance zone properties perProperty users) =
      le 2 zone ++ (le 2 properties ++ (le 1 perProperty ++ (le 1 users.length ++ users.flatMap User.body))) := by
    simp only [Request.body, List.append_assoc]
  have hlen : (Request.body (.zoneSetAllowance zone properties perProperty users)).length = 6 + 11 * users.length := by
    rw [hbody]
    simp only [List.length_append, le_length, flatMap_width_length userBody_length]
    omega
  have hdrop : (Request.body (.zoneSetAllowance zone properties perProperty users)).drop 6 = users.flatMap User.body := by
    rw [hbody]
    exact drop_le 1 users.length _
  have hnum : num (Request.body (.zoneSetAllowance zone properties perProperty users)) 5 1 = users.length := by
    simp [hbody, hfits]
  rw [parse_allowance, hnum, hdrop, if_neg (by omega), if_neg (Nat.not_lt.2 hcount), if_neg (not_not_intro hlen),
    if_pos (usersOk_flatMap users), parseUsers_flatMap (List.all_eq_true.1 husers)]
  simp [hbody, hzone, hproperties, hper]

theorem parse_readings_body {base : Nat} {records : List ReadingSpec} (hw : (Request.readings base records).wellFormed = true)
    (hcount : 1 ≤ records.length) : parseRequest 0x16 (Request.body (.readings base records)) = .readings base records := by
  simp only [Request.wellFormed, Bool.and_eq_true, decide_eq_true_iff, and_assoc] at hw
  obtain ⟨hbase, hmost, hrecords⟩ := hw
  have hfits : fits 1 records.length = true := fits_iff.2 (by omega)
  have hbody : Request.body (.readings base records) = le 1 records.length ++ (le 4 base ++ records.flatMap ReadingSpec.body) := by
    simp only [Request.body, List.append_assoc]
  have hlen : (Request.body (.readings base records)).length = 5 + 15 * records.length := by
    rw [hbody]
    simp only [List.length_append, le_length, flatMap_width_length readingBody_length]
    omega
  have hdrop : (Request.body (.readings base records)).drop 5 = records.flatMap ReadingSpec.body := by
    rw [hbody]
    exact drop_le 4 base _
  have hnum : num (Request.body (.readings base records)) 0 1 = records.length := by
    rw [hbody, num_le hfits]
  rw [parse_readings, hnum, hdrop, if_neg (by omega), if_neg (by omega), if_neg (not_not_intro hlen),
    parseReadings_flatMap (List.all_eq_true.1 hrecords)]
  simp [hbody, hbase]

/-- Settles O12: the two kinds with a count, and the bodies of one length. -/
theorem bodiesReadBack : Obligations.BodiesReadBack := by
  unfold Obligations.BodiesReadBack
  intro r hw husers hrecords
  by_cases hf : hasFixedBody r = true
  · exact parse_fixed hw hf
  · cases r with
    | zoneSetAllowance zone properties perProperty users => exact parse_allowance_body hw (husers _ _ _ _ rfl)
    | readings base records => exact parse_readings_body hw (hrecords _ _ rfl)
    | _ => exact absurd rfl hf

/-! ### A request's frame acts as its row (R148, R152) -/

theorem requestRow_kind {c : Instr} {kind tag : Byte} {r : Request} (hc : c.requestOf = some (kind, tag, r)) : kind = r.kind := by
  cases c <;> cases hc <;> rfl

/-- No body a host sends is longer than a frame holds. -/
theorem body_length_le {r : Request} (hw : r.wellFormed = true) : r.body.length ≤ 250 := by
  cases r with
  | zoneSetAllowance zone properties perProperty users =>
    simp only [Request.wellFormed, Bool.and_eq_true, decide_eq_true_iff, and_assoc] at hw
    obtain ⟨-, -, -, hmost, -⟩ := hw
    simp only [Request.body, List.length_append, le_length, flatMap_width_length userBody_length]
    omega
  | readings base records =>
    simp only [Request.wellFormed, Bool.and_eq_true, decide_eq_true_iff, and_assoc] at hw
    obtain ⟨-, hmost, -⟩ := hw
    simp only [Request.body, List.length_append, le_length, flatMap_width_length readingBody_length]
    omega
  | _ => simp [Request.body, le_length, leSigned_length, leBool_length]

/-- Settles O13: a good frame is handed on as the request it carries, and its body is read back. -/
theorem frameOfARequestIsItsRow : Obligations.FrameOfARequestIsItsRow := by
  unfold Obligations.FrameOfARequestIsItsRow
  intro c kind tag r s hc hw husers hrecords hhunt
  rw [exec_frame_good hhunt (body_length_le hw), exec_request c kind tag r s hc, requestRow_kind hc, bodiesReadBack r hw husers hrecords]

end Sys2Proof.Machine

end

/-! Requests refused: a KIND that names none, a field out of range, a part not in RUN, an UNDEFINED zone, a body of the wrong
length or with a wrong mark (R2, R152, R163). -/

section

namespace Sys2Proof.Machine

/-! ### Step 1 of R2 -/

theorem between_iff {lo hi n : Nat} : between lo hi n = true ↔ ¬ Outside lo hi n := by
  rw [between, Outside, Bool.and_eq_true, decide_eq_true_iff, decide_eq_true_iff, not_or, not_lt, not_lt]

theorem outside_zero {hi n : Nat} : Outside 0 hi n ↔ hi < n := or_iff_right (Nat.not_lt_zero n)

theorem optBetween_iff {lo hi : Nat} {n : Option Nat} : optBetween lo hi n = true ↔ ¬ OutsideOpt lo hi n := by
  cases n with
  | none => simp [optBetween, OutsideOpt]
  | some v => simp [optBetween, OutsideOpt, between_iff]

theorem zoneOk_iff {z : Nat} : zoneOk z = true ↔ ¬ Outside 1 256 z := between_iff

theorem ackInRange_iff {entry flags : Nat} : ackInRange entry flags = true ↔ ¬ (Request.ack entry flags).outOfRange := by
  unfold ackInRange Request.outOfRange
  by_cases h : entry = 0
  · simp [h]
  · simp [h]

theorem systemInRange_iff {f : SystemSpec} : systemInRange f = true ↔ ¬ (Request.systemSet f).outOfRange := by
  have hslot : (f.slotLength.all fun n => n = 5 || n = 10 || n = 15 || n = 30) = true ↔
      ¬ ∃ v, f.slotLength = some v ∧ v ≠ 5 ∧ v ≠ 10 ∧ v ≠ 15 ∧ v ≠ 30 := by
    cases f.slotLength with
    | none => simp
    | some n => simp; tauto
  simp only [systemInRange, Request.outOfRange, Bool.and_eq_true, hslot, optBetween_iff, not_or, and_assoc]

theorem userInRange_iff {u : User} :
    userInRange u = true ↔ ¬ (4294967295 < u.tag ∨ Outside 1 65535 u.allowance ∨ OutsideOpt 1 127 u.weekdays ∨
      OutsideOpt 0 49710 u.validUntil) := by
  simp only [userInRange, Bool.and_eq_true, between_iff, outside_zero, optBetween_iff, not_or, not_lt, and_assoc]

theorem meterInRange_iff {f : MeterSpec} : meterInRange f = true ↔ ¬ (Request.meterDefine f).outOfRange := by
  have hpulse : (if f.kind = 2 then f.channel.isSome && f.modulus = 7 else f.channel.isNone) = true ↔
      ¬ (f.kind = 2 ∧ (f.channel = none ∨ f.modulus ≠ 7)) ∧ ¬ (f.kind ≠ 2 ∧ f.channel ≠ none) := by
    by_cases hk : f.kind = 2
    · cases f.channel <;> simp [hk]
    · cases f.channel <;> simp [hk]
  simp only [meterInRange, Request.outOfRange, Bool.and_eq_true, hpulse, between_iff, outside_zero, optBetween_iff, bne_iff_ne,
    not_or, not_lt, and_assoc, ne_eq]

theorem channelInRange_iff {channel : Nat} {f : ChannelSpec} :
    (between 0 7 channel && channelInRange f) = true ↔ ¬ (Request.channelSet channel f).outOfRange := by
  have hall : ((f.enable.isSome == f.width.isSome) = true ∧ (f.width.isSome == f.noise.isSome) = true) ↔
      ¬ ¬ ((f.enable = none ∧ f.width = none ∧ f.noise = none) ∨ (f.enable ≠ none ∧ f.width ≠ none ∧ f.noise ≠ none)) := by
    cases f.enable <;> cases f.width <;> cases f.noise <;> simp
  simp only [channelInRange, Request.outOfRange, Bool.and_eq_true, hall, between_iff, outside_zero, optBetween_iff, not_or, not_lt,
    and_assoc]

/-- Step 1 of R2 passes the requests whose fields are all in their ranges. -/
theorem requestInRange_iff (r : Request) : requestInRange r = true ↔ ¬ r.outOfRange := by
  cases r with
  | systemSet f => exact systemInRange_iff
  | ack entry flags => exact ackInRange_iff
  | meterDefine f => exact meterInRange_iff
  | channelSet channel f => exact channelInRange_iff
  | zoneSetAllowance zone properties perProperty users =>
    have husers : users.all userInRange = true ↔ ¬ ∃ u ∈ users, 4294967295 < u.tag ∨ Outside 1 65535 u.allowance ∨
        OutsideOpt 1 127 u.weekdays ∨ OutsideOpt 0 49710 u.validUntil := by
      simp only [List.all_eq_true, userInRange_iff, not_exists, not_and]
    simp only [requestInRange, Request.outOfRange, Bool.and_eq_true, husers, zoneOk_iff, between_iff, outside_zero, not_or,
      not_lt, and_assoc]
  | baselinePut zone baseline count cusum =>
    simp only [requestInRange, baselineInRange, Request.outOfRange, Bool.and_eq_true, zoneOk_iff, decide_eq_true_iff, not_or, not_lt,
      and_assoc]
  | _ =>
    simp only [requestInRange, surveyInRange, windowInRange, testsInRange, Request.outOfRange, Bool.and_eq_true, Bool.false_eq_true,
      zoneOk_iff, between_iff, outside_zero, optBetween_iff, not_or, not_lt, not_true_eq_false, not_false_eq_true, and_assoc]

/-! ### Steps 1 to 3 of R2 for a row -/

theorem runRequest_outOfRange {r : Request} (h : r.outOfRange) (s : State) : s.runRequest r = .refuse .badValue s :=
  if_neg fun hr => (requestInRange_iff r).1 hr h

/-- A request that needs RUN in COLD. -/
theorem runKind_notReady {s : State} {r : Request} (h : r.needsRun = true) (hcold : s.clock.running = false) :
    s.runKind r = .refuse .notReady s := by
  have hstop : (!s.clock.running) = true := by rw [hcold]; rfl
  cases r with
  | surveyArm zone f replace => exact if_pos hstop
  | zoneStart zone => exact if_pos hstop
  | _ => cases h

/-- A request on an UNDEFINED zone. -/
theorem runKind_noSuch {s : State} {r : Request} {z : Nat} (h : r.zoneActedOn = some z) (hz : s.entry z = none)
    (hrun : r.needsRun = true → s.clock.running = true) : s.runKind r = .refuse .noSuch s := by
  cases r with
  | surveyArm zone f replace =>
    cases h
    exact (if_neg (by rw [hrun rfl]; decide)).trans (onZone_none hz _)
  | zoneStart zone =>
    cases h
    exact (if_neg (by rw [hrun rfl]; decide)).trans (onZone_none hz _)
  | dispose zone disposition absorb =>
    cases h
    match disposition with
    | 0 => exact onZone_none hz _
    | 1 => exact onZone_none hz _
    | _ + 2 => exact onZone_none hz _
  | surveyCancel zone => cases h; exact onZone_none hz _
  | zoneStop zone => cases h; exact onZone_none hz _
  | zoneUndefine zone => cases h; exact onZone_none hz _
  | zoneSetWindow zone f => cases h; exact onZone_none hz _
  | zoneSetAllowance zone properties perProperty users => cases h; exact onZone_none hz _
  | zoneSetTests zone f => cases h; exact onZone_none hz _
  | disturb zone start stop => cases h; exact onZone_none hz _
  | rebaseline zone => cases h; exact onZone_none hz _
  | baselineGet zone => cases h; exact onZone_none hz _
  | baselinePut zone baseline count cusum => cases h; exact onZone_none hz _
  | resultGet zone selector => cases h; exact onZone_none hz _
  | zoneStatus zone => cases h; exact onZone_none hz _
  | profile zone descriptor => cases h; exact onZone_none hz _
  | _ => cases h

/-! ### A wrong body (R152, R163) -/

theorem num_one (b : List Byte) (off : Nat) : num b off 1 = (b.getD off 0).toNat := by
  unfold num
  rw [List.take_one, List.head?_drop, List.getD_eq_getElem?_getD]
  cases b[off]? <;> simp [unle]

theorem flagOk_eq_false {b : List Byte} {off : Nat} : flagOk b off = false ↔ 1 < (b.getD off 0).toNat := by
  rw [flagOk, num_one, decide_eq_false_iff_not, not_le]

theorem num_drop (b : List Byte) (i off k : Nat) : num (b.drop i) off k = num b (i + off) k := by
  unfold num
  rw [List.drop_drop]

theorem flagOk_drop (b : List Byte) (i off : Nat) : flagOk (b.drop i) off = flagOk b (i + off) := by
  unfold flagOk
  rw [num_drop]

/-- Every presence byte of the user entries that stand in a body. -/
theorem usersOk_iff {n : Nat} {b : List Byte} :
    usersOk n b = true ↔ ∀ k < n, flagOk b (6 + 11 * k) = true ∧ flagOk b (8 + 11 * k) = true := by
  induction n generalizing b with
  | zero => exact iff_of_true rfl fun k hk => absurd hk (Nat.not_lt_zero k)
  | succ n ih =>
    have hshift (off k : Nat) : flagOk (b.drop 11) (off + 11 * k) = flagOk b (off + 11 * (k + 1)) := by
      rw [flagOk_drop]
      congr 1
      omega
    rw [usersOk, Bool.and_eq_true, Bool.and_eq_true, ih, Nat.forall_lt_succ_left]
    simp only [hshift]

theorem parseFixed_length {b : List Byte} {n : Nat} (h : b.length ≠ n) (marks : List Nat) (r : Request) :
    parseFixed b n marks r = .badLength := if_neg h

theorem parseFixed_mark {b : List Byte} {n o : Nat} {marks : List Nat} (h : b.length = n) (ho : o ∈ marks)
    (hbad : flagOk b o = false) (r : Request) : parseFixed b n marks r = .badValue := by
  unfold parseFixed
  rw [if_pos h, if_neg]
  exact fun hall => Bool.false_ne_true (hbad.symm.trans (List.all_eq_true.1 hall o ho))

theorem parseFixed_badValue {b : List Byte} {n : Nat} (h : b.length = n) (marks : List Nat) : parseFixed b n marks .badValue = .badValue :=
  (if_pos h).trans (ite_self _)

/-- METER EXCEPTIONS with a form byte above 1. -/
theorem exceptionsForm_bad {b : List Byte} (h : flagOk b 0 = false) (tagForm sweepForm : Request) :
    (if num b 0 1 = 0 then tagForm else if num b 0 1 = 1 then sweepForm else .badValue) = .badValue := by
  rw [flagOk, decide_eq_false_iff_not, not_le] at h
  rw [if_neg (by omega), if_neg (by omega)]

/-- A KIND whose bodies have one length is read by that length and its marks; METER EXCEPTIONS judges its form byte itself. -/
theorem parse_fixedKind {kind : Byte} {n : Nat} (h : (kind.toNat, n) ∈ bodyLengths) (b : List Byte) :
    ∃ marks r, parseRequest kind b = parseFixed b n marks r ∧
      ∀ offsets, (kind.toNat, offsets) ∈ markOffsets → ∀ o ∈ offsets, flagOk b o = false → o ∈ marks ∨ r = .badValue := by
  simp only [bodyLengths, List.cons_append, List.nil_append, List.mem_cons, List.not_mem_nil, or_false, Prod.mk.injEq] at h
  unfold parseRequest
  casesm* _ ∨ _
  all_goals
    obtain ⟨hk, rfl⟩ := h
    rw [hk]
    refine ⟨_, _, rfl, ?_⟩
    simp +contextual [markOffsets, exceptionsForm_bad]

theorem exec_badLength {s : State} {kind tag : Byte} {body : List Byte} (hs : s.ready) (hhunt : s.link.rx = .hunting)
    (hbody : body.length ≤ 250) (h : parseRequest kind body = .badLength) :
    exec (.frame kind tag body (frameCrc kind tag body)) s =
      .next ((s.executing ⟨kind, tag, .badLength⟩).answer ⟨kind, tag, .badLength⟩ .badLength [] false) := by
  rw [exec_frame_good hhunt hbody, h, request_done hs rfl]

theorem exec_badValue {s : State} {kind tag : Byte} {body : List Byte} (hs : s.ready) (hhunt : s.link.rx = .hunting)
    (hbody : body.length ≤ 250) (h : parseRequest kind body = .badValue) :
    exec (.frame kind tag body (frameCrc kind tag body)) s =
      .next ((s.executing ⟨kind, tag, .badValue⟩).answer ⟨kind, tag, .badValue⟩ .badValue [] false) := by
  rw [exec_frame_good hhunt hbody, h, request_done hs rfl]

/-- Settles O10: the steps of R2 in turn, and the bodies that are read as no request. -/
theorem wrongRequestsAreAnswered : Obligations.WrongRequestsAreAnswered := by
  unfold Obligations.WrongRequestsAreAnswered
  refine ⟨fun kind tag s hs hkind => ?_, ⟨requestInRange_iff, fun c kind tag r s hc hs => ⟨fun hout => ?_, fun hin => ?_⟩⟩,
    fun kind tag body s hs hhunt hbody => ?_⟩
  · have hnone : kind.namesRequest = false := by
      unfold Byte.namesRequest
      rw [Bool.and_eq_false_iff, decide_eq_false_iff_not, decide_eq_false_iff_not]
      omega
    have hrow : exec (.unknownKind kind tag) s = .next (s.request kind tag .unknown) := by
      refine congrArg Host.Outcome.next (live_congr (if_neg ?_))
      rw [hnone]
      decide
    exact ⟨hrow.trans (congrArg Host.Outcome.next (request_done hs rfl)), rfl, rfl⟩
  · exact exec_done hc hs (runRequest_outOfRange hout _)
  · have hrange := (requestInRange_iff r).2 hin
    exact ⟨fun hneed hcold => exec_runKind hc hs hrange (runKind_notReady hneed hcold),
      fun z hz hnone hrun => exec_runKind hc hs hrange (runKind_noSuch hz hnone hrun)⟩
  · intro long bad wrongLength wrongValue
    have hlength (h : parseRequest kind body = .badLength) : wrongLength := exec_badLength hs hhunt hbody h
    have hvalue (h : parseRequest kind body = .badValue) : wrongValue := exec_badValue hs hhunt hbody h
    refine ⟨fun n hn => ?_, fun hkind => ?_, fun hkind => ?_⟩
    · obtain ⟨marks, r, hparse, hmarks⟩ := parse_fixedKind hn body
      refine ⟨fun hne => hlength (hparse.trans (parseFixed_length hne _ _)), fun heq offsets hoff o ho hbad => hvalue (hparse.trans ?_)⟩
      obtain hmem | rfl := hmarks offsets hoff o ho (flagOk_eq_false.2 hbad)
      · exact parseFixed_mark heq hmem (flagOk_eq_false.2 hbad) r
      · exact parseFixed_badValue heq marks
    · subst hkind
      intro count
      have hcount : num body 5 1 = count := num_one body 5
      rw [parse_allowance, hcount] at hlength hvalue
      refine ⟨fun hshort => hlength (if_pos hshort), fun hlong hmany => hvalue ?_, fun hlong hfew hne => hlength ?_,
        fun heq hfew ⟨k, hk, hbad⟩ => hvalue ?_⟩
      · rw [if_neg (Nat.not_lt.2 hlong), if_pos hmany]
      · rw [if_neg (Nat.not_lt.2 hlong), if_neg (Nat.not_lt.2 hfew), if_pos hne]
      · have hmarks : ¬ usersOk count (body.drop 6) = true := fun hok => by
          obtain ⟨h6, h8⟩ := usersOk_iff.1 hok k hk
          rw [flagOk_drop, ← Nat.add_assoc] at h6 h8
          obtain hbad | hbad := hbad
          · exact Bool.false_ne_true ((flagOk_eq_false.2 hbad).symm.trans h6)
          · exact Bool.false_ne_true ((flagOk_eq_false.2 hbad).symm.trans h8)
        rw [if_neg (by omega), if_neg (Nat.not_lt.2 hfew), if_neg (not_not_intro heq), if_neg hmarks]
    · subst hkind
      intro count
      have hcount : num body 0 1 = count := num_one body 0
      rw [parse_readings, hcount] at hlength hvalue
      have hne (h : body ≠ []) : body.length ≠ 0 := fun h0 => h (List.length_eq_zero_iff.1 h0)
      refine ⟨fun hnil => hlength (if_pos (List.length_eq_zero_iff.2 hnil)), fun hnil hwrong => hvalue ?_,
        fun hnil hone hfew hlen => hlength ?_⟩
      · rw [if_neg (hne hnil), if_pos hwrong]
      · rw [if_neg (hne hnil), if_neg (by omega), if_pos hlen]

end Sys2Proof.Machine

end
